-- ==== Sys2Proof/Word.lean ====
section
/-! DEFINITION. The machine's plain values: bytes, 16-bit words, 12-bit address immediates, nibbles, register
numbers (spec/00_scope.md R5, R6; every value is unsigned, R6). -/

namespace Sys2Proof

/-- An 8-bit value: a V register, a memory byte, a timer (R5 `REG_WIDTH`, `TIMER_WIDTH`). -/
abbrev Byte := BitVec 8

/-- A 16-bit value: `I`, `pc`, a call-stack entry, an instruction word (R5 `I_WIDTH`, `PC_WIDTH`, `STACK_WORD`, R60). -/
abbrev Word := BitVec 16

/-- A 12-bit address immediate `NNN` (R61). -/
abbrev Addr12 := BitVec 12

/-- The number of a general register, the value of a 4-bit field `X` or `Y`: always in 0..15 (R10, R61). -/
abbrev Reg := Fin 16

/-- The index of a logical key, 0x0 to 0xF (R17). -/
abbrev Key := Fin 16

/-- `VF`, the register the flag writes go to (R11). -/
abbrev Reg.f : Reg := 15

/-- Two bytes as one word, the first byte in the high half (R44: `MemRead(a, 2) = mem[a] ++ mem[a+1]`). -/
def wordOfBytes (hi lo : Byte) : Word := hi ++ lo

end Sys2Proof
end

