-- ==== Sys2Proof/Syntax.lean ====
section
/-! DEFINITION. The instructions: one constructor per row of spec/opcode_table.json (spec/30_encoding.md R66), its
operands the fields of R61. The names follow the spec's mnemonics (R66, D28). -/

namespace Sys2Proof

/-- The 34 instructions of R66. `x` and `y` are the register fields `X` and `Y`, `nn` the byte immediate, `nnn` the
12-bit address immediate, `n` the row count `N` (R61, R64). Each operand's range is carried by its type. -/
inductive Instr where
  /-- `00E0`: clear the display (R161). -/
  | cls
  /-- `00EE`: return from subroutine (R101). -/
  | ret
  /-- `1NNN`: jump (R102). -/
  | jp (nnn : Addr12)
  /-- `2NNN`: call subroutine (R103). -/
  | call (nnn : Addr12)
  /-- `3XNN`: skip if `V[X] = NN` (R105). -/
  | seVxNn (x : Reg) (nn : Byte)
  /-- `4XNN`: skip if `V[X] ≠ NN` (R106). -/
  | sneVxNn (x : Reg) (nn : Byte)
  /-- `5XY0`: skip if `V[X] = V[Y]` (R107). -/
  | seVxVy (x y : Reg)
  /-- `6XNN`: load immediate (R122). -/
  | ldVxNn (x : Reg) (nn : Byte)
  /-- `7XNN`: add immediate, no flag (R123). -/
  | addVxNn (x : Reg) (nn : Byte)
  /-- `8XY0`: move (R124). -/
  | ldVxVy (x y : Reg)
  /-- `8XY1`: bitwise or, VF 0 (R125). -/
  | orVxVy (x y : Reg)
  /-- `8XY2`: bitwise and, VF 0 (R126). -/
  | andVxVy (x y : Reg)
  /-- `8XY3`: bitwise exclusive or, VF 0 (R127). -/
  | xorVxVy (x y : Reg)
  /-- `8XY4`: add, VF carry (R128). -/
  | addVxVy (x y : Reg)
  /-- `8XY5`: `V[X] − V[Y]`, VF not-borrow (R129). -/
  | subVxVy (x y : Reg)
  /-- `8XY6`: shift right by one, VF the bit out (R130). -/
  | shrVxVy (x y : Reg)
  /-- `8XY7`: `V[Y] − V[X]`, VF not-borrow (R131). -/
  | subnVxVy (x y : Reg)
  /-- `8XYE`: shift left by one, VF the bit out (R132). -/
  | shlVxVy (x y : Reg)
  /-- `9XY0`: skip if `V[X] ≠ V[Y]` (R108). -/
  | sneVxVy (x y : Reg)
  /-- `ANNN`: load the index register (R141). -/
  | ldINnn (nnn : Addr12)
  /-- `BNNN`: jump with offset `V[0]` (R104). -/
  | jpV0Nnn (nnn : Addr12)
  /-- `CXNN`: random byte under a mask (R133). -/
  | rndVxNn (x : Reg) (nn : Byte)
  /-- `DXYN`: draw a sprite, gated by `DRF` (R162). -/
  | drwVxVyN (x y : Reg) (n : Fin 16)
  /-- `EX9E`: skip if key `V[X]` is pressed (R181). -/
  | skpVx (x : Reg)
  /-- `EXA1`: skip if key `V[X]` is not pressed (R182). -/
  | sknpVx (x : Reg)
  /-- `FX07`: read the delay timer (R184). -/
  | ldVxDt (x : Reg)
  /-- `FX0A`: wait for a key (R183). -/
  | ldVxK (x : Reg)
  /-- `FX15`: set the delay timer (R185). -/
  | ldDtVx (x : Reg)
  /-- `FX18`: set the sound timer (R186). -/
  | ldStVx (x : Reg)
  /-- `FX1E`: add to the index register, VF past 0xFFF (R142). -/
  | addIVx (x : Reg)
  /-- `FX29`: address of a font glyph (R143). -/
  | ldFVx (x : Reg)
  /-- `FX33`: three decimal digits to memory (R144). -/
  | ldBVx (x : Reg)
  /-- `FX55`: store `V[0..X]` (R145). -/
  | ldMemIVx (x : Reg)
  /-- `FX65`: load `V[0..X]` (R146). -/
  | ldVxMemI (x : Reg)
deriving DecidableEq, Repr

end Sys2Proof
end

