-- ==== Sys2Proof/Decode.lean ====
section
/-! DEFINITION. The decoder and, after it, the encoder, both from the encoding tables of spec/30_encoding.md
(R61, R62, R65, R66). -/

namespace Sys2Proof

/-- `X = w[11:8]` (R61). -/
def fieldX (w : Word) : Reg := (w.extractLsb' 8 4).toFin

/-- `Y = w[7:4]` (R61). -/
def fieldY (w : Word) : Reg := (w.extractLsb' 4 4).toFin

/-- `N = w[3:0]` (R61). -/
def fieldN (w : Word) : Fin 16 := (w.extractLsb' 0 4).toFin

/-- `NN = w[7:0]` (R61). -/
def fieldNn (w : Word) : Byte := w.extractLsb' 0 8

/-- `NNN = w[11:0]` (R61). -/
def fieldNnn (w : Word) : Addr12 := w.extractLsb' 0 12

/-- One row of the opcode table (R66): its mnemonic as spec/opcode_table.json spells it, the fixed bits and where they
are, and the instruction the fields of a matching word make. -/
structure OpcodeRow where
  mnemonic : String
  pattern : Word
  mask : Word
  build : Word → Instr

/-- A word selects a row when `(w AND mask) = match` (R65). -/
def OpcodeRow.selects (r : OpcodeRow) (w : Word) : Bool := w &&& r.mask == r.pattern

/-- Families 0 to 5 of R66. -/
def rowsControl : List OpcodeRow :=
  [⟨"CLS", 0x00E0, 0xFFFF, fun _ => .cls⟩,
   ⟨"RET", 0x00EE, 0xFFFF, fun _ => .ret⟩,
   ⟨"JP_NNN", 0x1000, 0xF000, fun w => .jp (fieldNnn w)⟩,
   ⟨"CALL_NNN", 0x2000, 0xF000, fun w => .call (fieldNnn w)⟩,
   ⟨"SE_VX__NN", 0x3000, 0xF000, fun w => .seVxNn (fieldX w) (fieldNn w)⟩,
   ⟨"SNE_VX__NN", 0x4000, 0xF000, fun w => .sneVxNn (fieldX w) (fieldNn w)⟩,
   ⟨"SE_VX__VY", 0x5000, 0xF00F, fun w => .seVxVy (fieldX w) (fieldY w)⟩]

/-- Families 6 to 9 of R66. -/
def rowsAlu : List OpcodeRow :=
  [⟨"LD_VX__NN", 0x6000, 0xF000, fun w => .ldVxNn (fieldX w) (fieldNn w)⟩,
   ⟨"ADD_VX__NN", 0x7000, 0xF000, fun w => .addVxNn (fieldX w) (fieldNn w)⟩,
   ⟨"LD_VX__VY", 0x8000, 0xF00F, fun w => .ldVxVy (fieldX w) (fieldY w)⟩,
   ⟨"OR_VX__VY", 0x8001, 0xF00F, fun w => .orVxVy (fieldX w) (fieldY w)⟩,
   ⟨"AND_VX__VY", 0x8002, 0xF00F, fun w => .andVxVy (fieldX w) (fieldY w)⟩,
   ⟨"XOR_VX__VY", 0x8003, 0xF00F, fun w => .xorVxVy (fieldX w) (fieldY w)⟩,
   ⟨"ADD_VX__VY", 0x8004, 0xF00F, fun w => .addVxVy (fieldX w) (fieldY w)⟩,
   ⟨"SUB_VX__VY", 0x8005, 0xF00F, fun w => .subVxVy (fieldX w) (fieldY w)⟩,
   ⟨"SHR_VX__VY", 0x8006, 0xF00F, fun w => .shrVxVy (fieldX w) (fieldY w)⟩,
   ⟨"SUBN_VX__VY", 0x8007, 0xF00F, fun w => .subnVxVy (fieldX w) (fieldY w)⟩,
   ⟨"SHL_VX__VY", 0x800E, 0xF00F, fun w => .shlVxVy (fieldX w) (fieldY w)⟩,
   ⟨"SNE_VX__VY", 0x9000, 0xF00F, fun w => .sneVxVy (fieldX w) (fieldY w)⟩]

/-- Families A to D of R66. -/
def rowsIndexDraw : List OpcodeRow :=
  [⟨"LD_I__NNN", 0xA000, 0xF000, fun w => .ldINnn (fieldNnn w)⟩,
   ⟨"JP_V0__NNN", 0xB000, 0xF000, fun w => .jpV0Nnn (fieldNnn w)⟩,
   ⟨"RND_VX__NN", 0xC000, 0xF000, fun w => .rndVxNn (fieldX w) (fieldNn w)⟩,
   ⟨"DRW_VX__VY__N", 0xD000, 0xF000, fun w => .drwVxVyN (fieldX w) (fieldY w) (fieldN w)⟩]

/-- Families E and F of R66. -/
def rowsKeysTimersMemory : List OpcodeRow :=
  [⟨"SKP_VX", 0xE09E, 0xF0FF, fun w => .skpVx (fieldX w)⟩,
   ⟨"SKNP_VX", 0xE0A1, 0xF0FF, fun w => .sknpVx (fieldX w)⟩,
   ⟨"LD_VX__DT", 0xF007, 0xF0FF, fun w => .ldVxDt (fieldX w)⟩,
   ⟨"LD_VX__K", 0xF00A, 0xF0FF, fun w => .ldVxK (fieldX w)⟩,
   ⟨"LD_DT__VX", 0xF015, 0xF0FF, fun w => .ldDtVx (fieldX w)⟩,
   ⟨"LD_ST__VX", 0xF018, 0xF0FF, fun w => .ldStVx (fieldX w)⟩,
   ⟨"ADD_I__VX", 0xF01E, 0xF0FF, fun w => .addIVx (fieldX w)⟩,
   ⟨"LD_F__VX", 0xF029, 0xF0FF, fun w => .ldFVx (fieldX w)⟩,
   ⟨"LD_B__VX", 0xF033, 0xF0FF, fun w => .ldBVx (fieldX w)⟩,
   ⟨"LD__I___VX", 0xF055, 0xF0FF, fun w => .ldMemIVx (fieldX w)⟩,
   ⟨"LD_VX___I", 0xF065, 0xF0FF, fun w => .ldVxMemI (fieldX w)⟩]

/-- The complete opcode table, all 34 rows in the order of R66. Matching is strict: every fixed digit is compared
(R67, D10, log 10). -/
def opcodeTable : List OpcodeRow := rowsControl ++ rowsAlu ++ rowsIndexDraw ++ rowsKeysTimersMemory

/-- Why bytes are no instruction. -/
inductive DecodeError where
  /-- The word matches no row of R66 (R68). -/
  | unknownOpcode (w : Word)
  /-- Fewer than the two bytes of an instruction (R60). -/
  | tooShort
deriving DecidableEq, Repr

/-- The decoding procedure of R65. -/
def decodeWord (w : Word) : Except DecodeError Instr :=
  match opcodeTable.find? (·.selects w) with
  | some r => .ok (r.build w)
  | none => .error (.unknownOpcode w)

/-- Decoding of bytes: an instruction is two bytes, the high byte first (R44, R60); the rest is handed back. -/
def decode : List Byte → Except DecodeError (Instr × List Byte)
  | hi :: lo :: rest =>
    match decodeWord (wordOfBytes hi lo) with
    | .ok i => .ok (i, rest)
    | .error e => .error e
  | _ => .error .tooShort

/-- The instruction the decoder reads from the low `nbits` bits of `w`, bit 0 the least significant bit of the
instruction word (spec/opcode_table.json), laid out high byte first (R44). -/
def decodeTableWord (nbits w : Nat) : Option Instr :=
  let word := BitVec.ofNat 16 (w % 2 ^ nbits)
  match decode [word.extractLsb' 8 8, word.extractLsb' 0 8] with
  | .ok (i, _) => some i
  | .error _ => none

/-- The mnemonic of an instruction as spec/opcode_table.json spells it (R66, R73, D28). -/
def Instr.mnemonic : Instr → String
  | .cls => "CLS"
  | .ret => "RET"
  | .jp _ => "JP_NNN"
  | .call _ => "CALL_NNN"
  | .seVxNn _ _ => "SE_VX__NN"
  | .sneVxNn _ _ => "SNE_VX__NN"
  | .seVxVy _ _ => "SE_VX__VY"
  | .ldVxNn _ _ => "LD_VX__NN"
  | .addVxNn _ _ => "ADD_VX__NN"
  | .ldVxVy _ _ => "LD_VX__VY"
  | .orVxVy _ _ => "OR_VX__VY"
  | .andVxVy _ _ => "AND_VX__VY"
  | .xorVxVy _ _ => "XOR_VX__VY"
  | .addVxVy _ _ => "ADD_VX__VY"
  | .subVxVy _ _ => "SUB_VX__VY"
  | .shrVxVy _ _ => "SHR_VX__VY"
  | .subnVxVy _ _ => "SUBN_VX__VY"
  | .shlVxVy _ _ => "SHL_VX__VY"
  | .sneVxVy _ _ => "SNE_VX__VY"
  | .ldINnn _ => "LD_I__NNN"
  | .jpV0Nnn _ => "JP_V0__NNN"
  | .rndVxNn _ _ => "RND_VX__NN"
  | .drwVxVyN _ _ _ => "DRW_VX__VY__N"
  | .skpVx _ => "SKP_VX"
  | .sknpVx _ => "SKNP_VX"
  | .ldVxDt _ => "LD_VX__DT"
  | .ldVxK _ => "LD_VX__K"
  | .ldDtVx _ => "LD_DT__VX"
  | .ldStVx _ => "LD_ST__VX"
  | .addIVx _ => "ADD_I__VX"
  | .ldFVx _ => "LD_F__VX"
  | .ldBVx _ => "LD_B__VX"
  | .ldMemIVx _ => "LD__I___VX"
  | .ldVxMemI _ => "LD_VX___I"

/-- A word of format `fNNN` (R62). -/
def packNnn (pattern : Word) (nnn : Addr12) : Word := pattern ||| nnn.setWidth 16

/-- A word of format `fXNN` (R62). -/
def packXNn (pattern : Word) (x : Reg) (nn : Byte) : Word := pattern ||| BitVec.ofNat 16 x <<< 8 ||| nn.setWidth 16

/-- A word of format `fXYn` (R62). -/
def packXY (pattern : Word) (x y : Reg) : Word := pattern ||| BitVec.ofNat 16 x <<< 8 ||| BitVec.ofNat 16 y <<< 4

/-- A word of format `DXYN` (R62). -/
def packXYN (pattern : Word) (x y : Reg) (n : Fin 16) : Word := packXY pattern x y ||| BitVec.ofNat 16 n

/-- A word of format `fXnn` (R62). -/
def packX (pattern : Word) (x : Reg) : Word := pattern ||| BitVec.ofNat 16 x <<< 8

/-- The instruction word of an instruction (R62, R66). The ignored field `Y` of `8XY6` and `8XYE` is kept as it is
(R64). -/
def encodeWord : Instr → Word
  | .cls => 0x00E0
  | .ret => 0x00EE
  | .jp nnn => packNnn 0x1000 nnn
  | .call nnn => packNnn 0x2000 nnn
  | .seVxNn x nn => packXNn 0x3000 x nn
  | .sneVxNn x nn => packXNn 0x4000 x nn
  | .seVxVy x y => packXY 0x5000 x y
  | .ldVxNn x nn => packXNn 0x6000 x nn
  | .addVxNn x nn => packXNn 0x7000 x nn
  | .ldVxVy x y => packXY 0x8000 x y
  | .orVxVy x y => packXY 0x8001 x y
  | .andVxVy x y => packXY 0x8002 x y
  | .xorVxVy x y => packXY 0x8003 x y
  | .addVxVy x y => packXY 0x8004 x y
  | .subVxVy x y => packXY 0x8005 x y
  | .shrVxVy x y => packXY 0x8006 x y
  | .subnVxVy x y => packXY 0x8007 x y
  | .shlVxVy x y => packXY 0x800E x y
  | .sneVxVy x y => packXY 0x9000 x y
  | .ldINnn nnn => packNnn 0xA000 nnn
  | .jpV0Nnn nnn => packNnn 0xB000 nnn
  | .rndVxNn x nn => packXNn 0xC000 x nn
  | .drwVxVyN x y n => packXYN 0xD000 x y n
  | .skpVx x => packX 0xE09E x
  | .sknpVx x => packX 0xE0A1 x
  | .ldVxDt x => packX 0xF007 x
  | .ldVxK x => packX 0xF00A x
  | .ldDtVx x => packX 0xF015 x
  | .ldStVx x => packX 0xF018 x
  | .addIVx x => packX 0xF01E x
  | .ldFVx x => packX 0xF029 x
  | .ldBVx x => packX 0xF033 x
  | .ldMemIVx x => packX 0xF055 x
  | .ldVxMemI x => packX 0xF065 x

/-- The two bytes of an instruction, the high byte first (R44, R60). -/
def encode (i : Instr) : List Byte :=
  [(encodeWord i).extractLsb' 8 8, (encodeWord i).extractLsb' 0 8]

end Sys2Proof
end

