-- ==== Sys2Proof/Config.lean ====
section
/-! DEFINITION. The implementation parameters of spec/00_scope.md R5: the fixed numbers, the parameters a session is
built with (`Config`), and the values the spec leaves open, which are opaque constants without a body. -/

namespace Sys2Proof

/-- `MEM_SIZE` (R5). -/
abbrev memSize : Nat := 4096

/-- `PROG_BASE` (R5): where Reset loads the ROM and where execution starts. -/
abbrev progBase : Nat := 0x200

/-- `MAX_ROM` = 4096 − 0x200 (R5, R232). -/
abbrev maxRom : Nat := 3584

/-- `FONT_BASE` (R5, R28). -/
abbrev fontBase : Nat := 0x50

/-- `FONT_STRIDE` (R5): bytes per glyph. -/
abbrev fontStride : Nat := 5

/-- `DISP_W` (R5). -/
abbrev dispW : Nat := 64

/-- `DISP_H` (R5). -/
abbrev dispH : Nat := 32

/-- The 80 bytes of `FONT`: 16 glyphs of 5 bytes (R28). -/
abbrev Font := Vector Byte 80

/-- The parameters of one session (R5, R21): fixed before the first Reset, written by nothing afterwards.
R21 calls them parameters of the step, not state; `State` carries them read-only because a step has no other
argument, so every statement about a state quantifies over them (log 1). -/
structure Config where
  /-- `cfg.shift_copy`, read by `8XY6` and `8XYE` (R21). -/
  shiftCopy : Bool
  /-- `cfg.store_load_increment`, read by `FX55` and `FX65` (R21). -/
  storeLoadIncrement : Bool
  /-- `cfg.clipping`, read by `DXYN` (R21). -/
  clipping : Bool
  /-- `FONT` (R28). -/
  font : Font
  /-- `STACK_DEPTH`: `none` is the unbounded stack of the source (R5, R14, D3). -/
  stackDepth : Option Nat
deriving DecidableEq, Repr, Inhabited

/-- The quirk option `shift_copy` of the session that `State.reset` shows: the spec gives no default (D23), so no
value of it can be proved (log 1). -/
opaque Config.loadedShiftCopy : Bool

/-- The quirk option `store_load_increment` of that session: no default (D23, log 1). -/
opaque Config.loadedStoreLoadIncrement : Bool

/-- The quirk option `clipping` of that session: no default (D23, log 1). -/
opaque Config.loadedClipping : Bool

/-- The random byte of the `n`-th draw for which the host has supplied no byte by name: a free value (R25, R133, D22,
log 8). -/
opaque Config.freeRnd : Nat → Byte

/-- The default `FONT` of R28, one glyph a line. PRESUMED (the spec marks the bytes as general knowledge, D24, log 2). -/
def Config.defaultFont : Font :=
  #v[0xF0, 0x90, 0x90, 0x90, 0xF0,
     0x20, 0x60, 0x20, 0x20, 0x70,
     0xF0, 0x10, 0xF0, 0x80, 0xF0,
     0xF0, 0x10, 0xF0, 0x10, 0xF0,
     0x90, 0x90, 0xF0, 0x10, 0x10,
     0xF0, 0x80, 0xF0, 0x10, 0xF0,
     0xF0, 0x80, 0xF0, 0x90, 0xF0,
     0xF0, 0x10, 0x20, 0x40, 0x40,
     0xF0, 0x90, 0xF0, 0x90, 0xF0,
     0xF0, 0x90, 0xF0, 0x10, 0xF0,
     0xF0, 0x90, 0xF0, 0x90, 0x90,
     0xE0, 0x90, 0xE0, 0x90, 0xE0,
     0xF0, 0x80, 0x80, 0x80, 0xF0,
     0xE0, 0x90, 0x90, 0x90, 0xE0,
     0xF0, 0x80, 0xF0, 0x80, 0xF0,
     0xF0, 0x80, 0xF0, 0x80, 0x80]

/-- The parameters of the session that `State.reset` shows: the open quirk options, and the defaults of R5 for `FONT`
and `STACK_DEPTH` (logs 1 to 3). -/
def Config.session : Config where
  shiftCopy := Config.loadedShiftCopy
  storeLoadIncrement := Config.loadedStoreLoadIncrement
  clipping := Config.loadedClipping
  font := Config.defaultFont
  stackDepth := none

end Sys2Proof
end

