-- ==== Sys2Proof/Machine/State.lean ====
section
/-! DEFINITION. The architectural state (spec/10_state.md R31), the faults and refusals a tick can end in
(spec/00_scope.md R8), and the state right after Reset (R29). -/

namespace Sys2Proof.Machine

/-- The four fatal conditions of R200. -/
inductive FaultCause where
  /-- Code 1 (R201). -/
  | unknownOpcode
  /-- Code 2 (R202). -/
  | stackUnderflow
  /-- Code 3 (R203). -/
  | outOfRange
  /-- Code 4, only with a finite `STACK_DEPTH` (R204). -/
  | stackOverflow
deriving DecidableEq, Repr, Inhabited

/-- The record `(cause, at, info)` of the fault latch (R23, R205). -/
structure FaultRecord where
  cause : FaultCause
  /-- `at`: the address the faulting instruction was fetched from (R205). -/
  atPc : Word
  /-- `info`: the word, the offending address or key index, or 0, by cause (R200). -/
  info : Word
deriving DecidableEq, Repr, Inhabited

/-- Memory as a list of (address, byte) pairs: addresses strictly rising, no entry equal to what an unlisted address
reads as (`Memory.wf`, log 31). -/
abbrev Memory := List Host.Cell

/-- The display buffer: 32 rows of 64 one-bit cells (R16, R31); bit `x` of row `y` is `disp[y][x]`. -/
abbrev Display := Vector (BitVec 64) 32

/-- The whole state (R31). The last two fields are the model's own (R25 makes the random byte no state, log 8). -/
@[ext]
structure State where
  /-- `V[0]` to `V[15]` (R10). -/
  v : Vector Byte 16
  /-- The index register `I`, all 16 bits of it (R12). -/
  i : Word
  /-- The program counter (R13): between ticks the address to fetch next, during the execute phase already advanced. -/
  pc : Word
  /-- The call stack, top first (R14). -/
  stack : List Word
  /-- The 4096 bytes of memory (R15, R40). -/
  mem : Memory
  /-- The display buffer (R16). -/
  disp : Display
  /-- The key latch: `true` is pressed (R17). -/
  key : Vector Bool 16
  /-- The delay timer `DT` (R18). -/
  dt : Byte
  /-- The sound timer `ST` (R18). -/
  st : Byte
  /-- The Draw-Ready Flag `DRF` (R19). -/
  drf : Bool
  /-- The end-of-program sentinel `PEND` (R20). -/
  pend : Nat
  /-- `INIT`: the core has been Reset with a ROM (R22). -/
  init : Bool
  /-- The fault latch `FAULT` (R23). -/
  fault : Option FaultRecord
  /-- The parameters of the session, written by nothing (R5, R21). -/
  cfg : Config
  /-- The random bytes the host has supplied for the coming draws, oldest first. The model's own (log 8). -/
  rndFeed : List Byte
  /-- How many free values have been used up. The model's own (log 8). -/
  draws : Nat
deriving DecidableEq, Repr, Inhabited

/-- How a tick ends in a fault (R8: "one of the fatal conditions"). Each carries the state the fault leaves, in which
`FAULT` is latched and nothing else has changed (R205). Each is SAFE: nothing runs on from it until a Reset. -/
inductive Fault where
  /-- Raised by decode when the fetched word matches no row of R66 (R201). Safe. -/
  | unknownOpcode (after : State)
  /-- Raised by `00EE` on an empty call stack (R202). Safe. -/
  | stackUnderflow (after : State)
  /-- Raised by the fetch, `FX33`, `FX55`, `FX65`, `DXYN` at an address of 4096 or more, and by `EX9E`, `EXA1` at a key
  index above 15 (R203). Safe. -/
  | outOfRange (after : State)
  /-- Raised by `2NNN` on a full call stack, only with a finite `STACK_DEPTH` (R204). Safe. -/
  | stackOverflow (after : State)
deriving DecidableEq, Repr

/-- Why the model gives an event no next state (R8). -/
inductive Refusal where
  /-- An instruction whose meaning is not written. No arm of `exec` raises it. Safe. -/
  | notModelled (mnemonic : String)
  /-- Raised by a tick, a Frame or a key event while `INIT` is false (R220, R230). Safe: nothing happens. -/
  | notInitialized
  /-- Raised by a tick while `FAULT` is latched (R206). Safe: nothing happens. -/
  | alreadyFaulted
  /-- Raised by a Reset whose ROM does not fit; it carries the uninitialized core that is left (R232). Safe. -/
  | romTooLarge (after : State)
deriving DecidableEq, Repr

/-- What a tick, an instruction or a host event answers (R8). -/
abbrev Result := Host.Outcome State Fault Refusal

/-- The state right after a Reset with the empty ROM (R29 with `L = 0`, log 4): memory lists nothing, since an
unlisted address reads as the byte Reset leaves there. `DT`, `ST`, `DRF`, `key`, `FAULT` as the spec's decisions D4 to
D6 and D8 say (logs 5 to 7, 9). -/
def State.reset : State where
  v := Vector.replicate 16 0
  i := 0
  pc := 0x200
  stack := []
  mem := []
  disp := Vector.replicate 32 0
  key := Vector.replicate 16 false
  dt := 0
  st := 0
  drf := false
  pend := 0x200
  init := true
  fault := none
  cfg := Config.session
  rndFeed := []
  draws := 0

/-- What an uninitialized core holds: any value (R230), a free value per index (log 25). -/
opaque State.unspecified : Nat → State

end Sys2Proof.Machine
end

