-- ==== Sys2Proof/WellFormed.lean ====
section
/-! DEFINITION. What a well-formed input of the machine is. An instruction needs no check of its own: each operand's
range is its type (`Reg` and `Fin 16` hold 0..15, `Byte` 0..255, `Addr12` 0..0xFFF, spec/30_encoding.md R61), so no
ill-formed `Instr` can be written; likewise a key index (`Key`, R215, D32). What can be ill formed is a ROM and the
parameters of a session. -/

namespace Sys2Proof

/-- The ROM fits: its length is at most 3584 (R232). -/
def romFits (rom : List Byte) : Bool := rom.length ≤ maxRom

/-- `STACK_DEPTH` is `none` or a positive number (spec/92_eei_decisions.md, open parameters). -/
def Config.wf (c : Config) : Bool := c.stackDepth != some 0

end Sys2Proof
end

