-- ==== Sys2Proof/Machine/Ops.lean ====
section
/-! DEFINITION. The named operations over registers, program counter, stack, memory, display, keys and the random byte;
raising a fault; the fetch; Reset. Every instruction is written over these (spec/00_scope.md R7). -/

namespace Sys2Proof.Machine

/-! ### Registers (R10, R11) -/

/-- `V[x]`. -/
def State.reg (s : State) (x : Reg) : Byte := s.v[x]

/-- `V[x] <- b`. No register is hardwired (R10). -/
def State.setReg (s : State) (x : Reg) (b : Byte) : State := { s with v := s.v.set x b }

/-- A condition used as a number is 1 when true and 0 when false (R6). -/
def flagByte (c : Bool) : Byte := if c then 1 else 0

/-- `V[15] <- c` (R26). -/
def State.setFlag (s : State) (c : Bool) : State := s.setReg Reg.f (flagByte c)

/-- `V[x] <- b`, then `V[15] <- c`: the flag is written last, so with `x = 15` it is what remains (R121 (c), D14,
log 14). -/
def State.setRegFlag (s : State) (x : Reg) (b : Byte) (c : Bool) : State := (s.setReg x b).setFlag c

/-- `I <- w` (R12). -/
def State.setI (s : State) (w : Word) : State := { s with i := w }

/-! ### Program counter (R13, R70, R71) -/

/-- `pc <- w`. -/
def State.setPc (s : State) (w : Word) : State := { s with pc := w }

/-- The advance of the fetch, `pc <- pc + 2` (R70 step 5). -/
def State.advance (s : State) : State := s.setPc (s.pc + 2)

/-- `this_pc`, during the execute phase (R7). -/
def State.thisPc (s : State) : Word := s.pc - 2

/-- A taken skip, `pc <- pc + 2` (R109); a skip not taken changes nothing. -/
def State.skipIf (s : State) (c : Bool) : State := if c then s.setPc (s.pc + 2) else s

/-- The rewind of a busy-wait, `pc <- pc − 2`, back to `this_pc` (R71 (d)). -/
def State.rewind (s : State) : State := s.setPc s.thisPc

/-! ### Raising a fault (R205) -/

/-- The cause codes of R200 (D9, log 9). -/
def FaultCause.code : FaultCause → Nat
  | .unknownOpcode => 1
  | .stackUnderflow => 2
  | .outOfRange => 3
  | .stackOverflow => 4

/-- The fault outcome of a cause, carrying the state it leaves. -/
def FaultCause.toFault : FaultCause → State → Fault
  | .unknownOpcode => .unknownOpcode
  | .stackUnderflow => .stackUnderflow
  | .outOfRange => .outOfRange
  | .stackOverflow => .stackOverflow

/-- The state a fault leaves (R205). -/
def Fault.after : Fault → State
  | .unknownOpcode t => t
  | .stackUnderflow t => t
  | .outOfRange t => t
  | .stackOverflow t => t

/-- The cause of a fault (R200). -/
def Fault.cause : Fault → FaultCause
  | .unknownOpcode _ => .unknownOpcode
  | .stackUnderflow _ => .stackUnderflow
  | .outOfRange _ => .outOfRange
  | .stackOverflow _ => .stackOverflow

/-- Fault entry (R205), from the execute phase of a tick: `pc` is `this_pc` again, `FAULT <- (cause, this_pc, info)`,
nothing else changes. It is applied to the state before the instruction's first write, so nothing is committed (D8,
log 9). There is no handler, and no return from a fault but Reset (R207). -/
def raise (c : FaultCause) (info : Word) (s : State) : Result :=
  .fault (c.toFault { s with pc := s.thisPc, fault := some ⟨c, s.thisPc, info⟩ })

/-! ### Call stack (R14) -/

/-- The stack holds as many entries as a finite `STACK_DEPTH` allows (R204, D3, log 3). -/
def State.stackFull (s : State) : Bool :=
  match s.cfg.stackDepth with
  | none => false
  | some n => n ≤ s.stack.length

/-- `push(w)` (R14). -/
def State.push (s : State) (w : Word) : State := { s with stack := w :: s.stack }

/-! ### Memory (R40 to R48) -/

/-- What Reset leaves at an address outside the ROM, and what an unlisted address reads as: glyph bytes from 0x050 to
0x09F, zero elsewhere (R28, R29, R42, log 31). -/
def resetByte (font : Font) (a : Nat) : Byte :=
  if h : fontBase ≤ a ∧ a < fontBase + 80 then font[a - fontBase]'(by omega) else 0

/-- The byte at an address, given what unlisted addresses read as. -/
def Memory.read (bg : Nat → Byte) (m : Memory) (a : Nat) : Byte := (m.lookup a).getD (bg a)

/-- List a byte at its place, replacing an older one. -/
def Memory.insert (a : Nat) (b : Byte) : Memory → Memory
  | [] => [(a, b)]
  | c :: m => if a < c.1 then (a, b) :: c :: m else if a = c.1 then (a, b) :: m else c :: Memory.insert a b m

/-- Write a byte; writing what an unlisted address reads as removes the entry. -/
def Memory.write (bg : Nat → Byte) (m : Memory) (a : Nat) (b : Byte) : Memory :=
  if b = bg a then m.filter (fun c => c.1 != a) else m.insert a b

/-- The canonical form: addresses strictly rising and below 4096, no entry equal to what an unlisted address reads
as. -/
abbrev Memory.wf (bg : Nat → Byte) (m : Memory) : Prop :=
  m.Pairwise (fun c d => c.1 < d.1) ∧ ∀ c ∈ m, c.1 < memSize ∧ c.2 ≠ bg c.1

/-- `mem[a]`. -/
def State.byteAt (s : State) (a : Nat) : Byte := Memory.read (resetByte s.cfg.font) s.mem a

/-- `mem[a] <- b`. -/
def State.setByte (s : State) (a : Nat) (b : Byte) : State :=
  { s with mem := Memory.write (resetByte s.cfg.font) s.mem a b }

/-- The bytes at `a`, `a + 1`, … (R140: rising addresses, not wrapped). -/
def State.bytesAt (s : State) (a count : Nat) : List Byte := (List.range count).map fun k => s.byteAt (a + k)

/-- Bytes written at `a`, `a + 1`, … in rising order (R140). -/
def State.setBytes (s : State) (a : Nat) : List Byte → State
  | [] => s
  | b :: bs => (s.setByte a b).setBytes (a + 1) bs

/-- The first address of a block that is 4096 or more, if there is one: `max(base, 4096)` (R41, R56, D12, log 12). -/
def firstOutOfRange (base count : Nat) : Option Nat :=
  if count ≠ 0 ∧ memSize ≤ base + (count - 1) then some (max base memSize) else none

/-- Check a block before doing anything: `OutOfRange` with the first offending address, or go on (R41, R56). -/
def State.withBlock (s : State) (base count : Nat) (go : Result) : Result :=
  match firstOutOfRange base count with
  | some a => raise .outOfRange (BitVec.ofNat 16 a) s
  | none => go

/-! ### Display (R16, R160) -/

/-- A cell of the display: column and row (R16). -/
abbrev Pixel := Fin 64 × Fin 32

/-- `disp[y][x]`. -/
def cellAt (d : Display) (p : Pixel) : Bool := d[p.2].getLsbD p.1

/-- `disp[y][x] <- disp[y][x] XOR 1` (R162). -/
def toggleCell (d : Display) (p : Pixel) : Display := d.set p.2 (d[p.2] ^^^ (1#64 <<< p.1.val))

/-- A clear display (R161). -/
def clearDisplay : Display := Vector.replicate 32 0

/-! ### Key latch (R17) -/

/-- `key[k] = 1`. -/
def State.keyDown (s : State) (k : Key) : Bool := s.key[k]

/-- The least pressed key, if any: scan order 0, 1, …, 15 (R183, D33, log 23). -/
def State.firstKeyDown (s : State) : Option Key := (List.finRange 16).find? s.keyDown

/-! ### The random byte (R25, R133) -/

/-- `rnd` of this tick: what the host has supplied, else a free value (D22, log 8). -/
def State.rnd (s : State) : Byte :=
  match s.rndFeed with
  | b :: _ => b
  | [] => Config.freeRnd s.draws

/-- The state once `rnd` has been used: the next draw takes another byte (log 8). -/
def State.afterDraw (s : State) : State :=
  match s.rndFeed with
  | _ :: bs => { s with rndFeed := bs }
  | [] => { s with draws := s.draws + 1 }

/-! ### The tick up to the execute phase (R70 steps 1 to 6) -/

/-- The halted condition, exactly `pc ≥ PEND` (R24, D30, log 21). -/
def State.halted (s : State) : Bool := s.pend ≤ s.pc.toNat

/-- Steps 1 to 3 of R70: what a tick answers without fetching, if it does not fetch. -/
def State.beforeFetch (s : State) : Option Result :=
  if s.init = false then some (.refused .notInitialized)
  else if s.fault.isSome then some (.refused .alreadyFaulted)
  else if s.halted then some (.next s)
  else none

/-- The instruction word at `pc` (R44). -/
def State.wordAtPc (s : State) : Word := wordOfBytes (s.byteAt s.pc.toNat) (s.byteAt (s.pc.toNat + 1))

/-- Steps 4 and 6 of R70: the instruction at `pc`, or the cause and the `info` of the fault (R201, R203 (a), D36). -/
def State.fetch (s : State) : Except (FaultCause × Word) Instr :=
  match firstOutOfRange s.pc.toNat 2 with
  | some a => .error (.outOfRange, BitVec.ofNat 16 a)
  | none =>
    match decode [s.byteAt s.pc.toNat, s.byteAt (s.pc.toNat + 1)] with
    | .ok (i, _) => .ok i
    | .error _ => .error (.unknownOpcode, s.wordAtPc)

/-! ### Reset (R231) -/

/-- A successful Reset: everything at the value of R29, the parameters kept. The model's own fields are kept too, so
that a new session's draws are not the old ones again (log 26). -/
def State.resetWith (s : State) (rom : List Byte) : State :=
  { State.reset with
    mem := ({ State.reset with cfg := s.cfg }.setBytes progBase rom).mem
    pend := progBase + rom.length
    cfg := s.cfg
    rndFeed := s.rndFeed
    draws := s.draws }

/-- The uninitialized core of R230: `INIT` false, every other element unspecified, the parameters kept (log 25). -/
def State.uninitialized (s : State) : State :=
  { State.unspecified s.draws with
    init := false
    cfg := s.cfg
    rndFeed := s.rndFeed
    draws := s.draws + 1 }

/-- A session at power-on, before its first Reset (R230, log 25). -/
def State.powerOn (c : Config) : State := { State.unspecified 0 with init := false, cfg := c, rndFeed := [], draws := 1 }

end Sys2Proof.Machine
end

