-- ==== Sys2Proof/Machine/Flags.lean ====
section
/-! DEFINITION. Every flag computation of the machine, from the values read before any write (spec/10_state.md R26,
spec/41_alu.md R121). The exact result is computed on natural numbers and compared. -/

namespace Sys2Proof.Machine

/-- `8XY4`: the unsigned sum exceeds 255 (R128). -/
def carryOut (a b : Byte) : Bool := 255 < a.toNat + b.toNat

/-- `8XY5` with `a = V[X]`, `b = V[Y]`; `8XY7` with the operands exchanged: no borrow (R129, R131). -/
def noBorrow (a b : Byte) : Bool := b.toNat ≤ a.toNat

/-- `8XY6`: bit 0 of the value shifted (R130). -/
def bitOutRight (t : Byte) : Bool := t.getLsbD 0

/-- `8XYE`: bit 7 of the value shifted (R132). -/
def bitOutLeft (t : Byte) : Bool := t.getLsbD 7

/-- `FX1E`: the unwrapped sum is above 0xFFF (R142, D13, log 13). -/
def pastAddressSpace (i : Word) (a : Byte) : Bool := 0xFFF < i.toNat + a.toNat

end Sys2Proof.Machine
end

