-- ==== Sys2Proof/Machine/Operands.lean ====
section
/-! DEFINITION. Every operand form of the machine (spec/30_encoding.md R63, R64): how an instruction's fields and the
implicit operands become values. -/

namespace Sys2Proof.Machine

/-- `zext_16(NNN)` (R63): the address immediate in a 16-bit register. -/
def addressOf (nnn : Addr12) : Word := nnn.setWidth 16

/-- The target of `BNNN`: `NNN + V[0]`, at most 0x10FE, not reduced to 12 bits (R104). -/
def State.offsetTarget (s : State) (nnn : Addr12) : Word := BitVec.ofNat 16 (nnn.toNat + (s.reg 0).toNat)

/-- The value `8XY6` and `8XYE` shift: `V[Y]` with `cfg.shift_copy`, else `V[X]` (R130). -/
def State.shiftSource (s : State) (x y : Reg) : Byte := if s.cfg.shiftCopy then s.reg y else s.reg x

/-- The key `V[x]` names, if it is one: an index above 15 names none (R181, D16, log 15). -/
def State.keyOf (s : State) (x : Reg) : Option Key :=
  if h : (s.reg x).toNat < 16 then some ⟨(s.reg x).toNat, h⟩ else none

/-- The address of glyph `V[x]`: `0x050 + 5·V[X]` on all 8 bits (R143, D17, log 16). -/
def State.glyphAddress (s : State) (x : Reg) : Word := BitVec.ofNat 16 (fontBase + fontStride * (s.reg x).toNat)

/-- The registers `V[0]` to `V[x]`, the operand of `FX55` (R145). -/
def State.regsUpTo (s : State) (x : Reg) : List Byte := s.v.toList.take (x.val + 1)

/-- `V[k] <- mem[I + k]` for `k` = 0, 1, …, `count − 1`, the destination of `FX65` (R146). -/
def State.loadRegs (s : State) : Nat → State
  | 0 => s
  | k + 1 => if h : k < 16 then (s.loadRegs k).setReg ⟨k, h⟩ (s.byteAt (s.i.toNat + k)) else s.loadRegs k

/-- `I` after `FX55` or `FX65`: past the last byte with `cfg.store_load_increment`, else as it was (R145, R146, D37,
log 24). -/
def State.indexAfterBlock (s : State) (x : Reg) : Word :=
  if s.cfg.storeLoadIncrement then BitVec.ofNat 16 (s.i.toNat + x.val + 1) else s.i

/-- The three decimal digits of a byte, hundreds first (R144, D27, log 19). -/
def decimalDigits (b : Byte) : List Byte :=
  [BitVec.ofNat 8 (b.toNat / 100), BitVec.ofNat 8 (b.toNat / 10 % 10), BitVec.ofNat 8 (b.toNat % 10)]

/-- The cell of sprite column `c`, row `r` at origin `(x0, y0)`: dropped past the edge with clipping, else wrapped in each
coordinate (R162, R164, D18, log 17). -/
def spritePixel (clip : Bool) (x0 y0 r c : Nat) : Option Pixel :=
  if clip ∧ (dispW ≤ x0 + c ∨ dispH ≤ y0 + r) then none
  else some (⟨(x0 + c) % 64, Nat.mod_lt _ (by decide)⟩, ⟨(y0 + r) % 32, Nat.mod_lt _ (by decide)⟩)

/-- The cells the set bits of one sprite row land on; bit 7 is the leftmost column (R165, D19, log 17). -/
def rowPixels (clip : Bool) (x0 y0 r : Nat) (b : Byte) : List Pixel :=
  (List.range 8).filterMap fun c => if b.getLsbD (7 - c) then spritePixel clip x0 y0 r c else none

/-- The cells the set bits of a sprite land on, row by row from the top, columns from the left (R162). -/
def spritePixels (clip : Bool) (x0 y0 : Nat) (rows : List Byte) : List Pixel :=
  rows.zipIdx.flatMap fun (b, r) => rowPixels clip x0 y0 r b

/-- The cells `DXYN` toggles: origin `(V[X] mod 64, V[Y] mod 32)`, `N` bytes from `I` (R162, R164). -/
def State.drawnPixels (s : State) (x y : Reg) (n : Nat) : List Pixel :=
  spritePixels s.cfg.clipping ((s.reg x).toNat % dispW) ((s.reg y).toNat % dispH) (s.bytesAt s.i.toNat n)

end Sys2Proof.Machine
end

