-- ==== Sys2Proof/Machine/Alu.lean ====
section
/-! DEFINITION. Register loads, arithmetic, logic, shifts, random (spec/41_alu.md). Results are computed on natural
numbers and stored modulo 256 (R120); all sources are read first, the flag is written last (R121, log 14). -/

namespace Sys2Proof.Machine

/-- `6XNN`: `V[X] <- NN` (R122). -/
def execLdVxNn (x : Reg) (nn : Byte) (s : State) : Result := .next (s.setReg x nn)

/-- `7XNN`: `V[X] <- (V[X] + NN) mod 256`, no flag (R123). -/
def execAddVxNn (x : Reg) (nn : Byte) (s : State) : Result :=
  .next (s.setReg x (BitVec.ofNat 8 ((s.reg x).toNat + nn.toNat)))

/-- `8XY0`: `V[X] <- V[Y]` (R124). -/
def execLdVxVy (x y : Reg) (s : State) : Result := .next (s.setReg x (s.reg y))

/-- `8XY1`: `V[X] <- V[X] OR V[Y]`, VF <- 0 (R125). -/
def execOrVxVy (x y : Reg) (s : State) : Result := .next (s.setRegFlag x (s.reg x ||| s.reg y) false)

/-- `8XY2`: `V[X] <- V[X] AND V[Y]`, VF <- 0 (R126). -/
def execAndVxVy (x y : Reg) (s : State) : Result := .next (s.setRegFlag x (s.reg x &&& s.reg y) false)

/-- `8XY3`: `V[X] <- V[X] XOR V[Y]`, VF <- 0 (R127). -/
def execXorVxVy (x y : Reg) (s : State) : Result := .next (s.setRegFlag x (s.reg x ^^^ s.reg y) false)

/-- `8XY4`: `V[X] <- (V[X] + V[Y]) mod 256`, VF the carry (R128). -/
def execAddVxVy (x y : Reg) (s : State) : Result :=
  .next (s.setRegFlag x (BitVec.ofNat 8 ((s.reg x).toNat + (s.reg y).toNat)) (carryOut (s.reg x) (s.reg y)))

/-- `8XY5`: `V[X] <- (V[X] − V[Y]) mod 256`, VF 1 when there is no borrow (R129). -/
def execSubVxVy (x y : Reg) (s : State) : Result :=
  .next (s.setRegFlag x (BitVec.ofInt 8 ((s.reg x).toNat - (s.reg y).toNat)) (noBorrow (s.reg x) (s.reg y)))

/-- `8XY7`: `V[X] <- (V[Y] − V[X]) mod 256`, VF 1 when there is no borrow (R131). -/
def execSubnVxVy (x y : Reg) (s : State) : Result :=
  .next (s.setRegFlag x (BitVec.ofInt 8 ((s.reg y).toNat - (s.reg x).toNat)) (noBorrow (s.reg y) (s.reg x)))

/-- `8XY6`: `V[X] <- t div 2`, VF bit 0 of `t`, `t` the value shifted (R130). -/
def execShrVxVy (x y : Reg) (s : State) : Result :=
  .next (s.setRegFlag x (BitVec.ofNat 8 ((s.shiftSource x y).toNat / 2)) (bitOutRight (s.shiftSource x y)))

/-- `8XYE`: `V[X] <- (2 · t) mod 256`, VF bit 7 of `t`, `t` the value shifted (R132). -/
def execShlVxVy (x y : Reg) (s : State) : Result :=
  .next (s.setRegFlag x (BitVec.ofNat 8 (2 * (s.shiftSource x y).toNat)) (bitOutLeft (s.shiftSource x y)))

/-- `CXNN`: `V[X] <- NN AND rnd` (R133); `rnd` is any value, another one at the next draw (D22, log 8). -/
def execRndVxNn (x : Reg) (nn : Byte) (s : State) : Result := .next (s.afterDraw.setReg x (nn &&& s.rnd))

end Sys2Proof.Machine
end

