-- ==== Sys2Proof/Machine/Control.lean ====
section
/-! DEFINITION. Control transfer (spec/40_control_flow.md): return, jumps, call, skips. `pc` is already advanced (R100). -/

namespace Sys2Proof.Machine

/-- `00EE`: `pc <- pop()`; an empty stack raises `StackUnderflow` (R101). -/
def execRet (s : State) : Result :=
  match s.stack with
  | [] => raise .stackUnderflow 0 s
  | w :: ws => .next { s with pc := w, stack := ws }

/-- `1NNN`: `pc <- NNN` (R102). -/
def execJp (nnn : Addr12) (s : State) : Result := .next (s.setPc (addressOf nnn))

/-- `2NNN`: `push(pc)`, then `pc <- NNN`; a full stack of finite depth raises `StackOverflow` (R103, R204). -/
def execCall (nnn : Addr12) (s : State) : Result :=
  if s.stackFull then raise .stackOverflow 0 s else .next ((s.push s.pc).setPc (addressOf nnn))

/-- `3XNN`: skip if `V[X] = NN` (R105). -/
def execSeVxNn (x : Reg) (nn : Byte) (s : State) : Result := .next (s.skipIf (s.reg x == nn))

/-- `4XNN`: skip if `V[X] ≠ NN` (R106). -/
def execSneVxNn (x : Reg) (nn : Byte) (s : State) : Result := .next (s.skipIf (s.reg x != nn))

/-- `5XY0`: skip if `V[X] = V[Y]` (R107). -/
def execSeVxVy (x y : Reg) (s : State) : Result := .next (s.skipIf (s.reg x == s.reg y))

/-- `9XY0`: skip if `V[X] ≠ V[Y]` (R108). -/
def execSneVxVy (x y : Reg) (s : State) : Result := .next (s.skipIf (s.reg x != s.reg y))

/-- `BNNN`: `pc <- NNN + V[0]` (R104). -/
def execJpV0Nnn (nnn : Addr12) (s : State) : Result := .next (s.setPc (s.offsetTarget nnn))

end Sys2Proof.Machine
end

