-- ==== Sys2Proof/Machine/Display.lean ====
section
/-! DEFINITION. Display instructions (spec/43_display.md). -/

namespace Sys2Proof.Machine

/-- `00E0`: clear the display, whatever `DRF` holds (R161). -/
def execCls (s : State) : Result := .next { s with disp := clearDisplay }

/-- One set sprite pixel: note a collision when its cell holds 1, and toggle the cell (R162). -/
def plot (acc : Display × Bool) (p : Pixel) : Display × Bool :=
  (toggleCell acc.1 p, acc.2 || cellAt acc.1 p)

/-- The display and the collision flag after drawing cells in order (R162, R166). -/
def drawPixels (d : Display) (ps : List Pixel) : Display × Bool := ps.foldl plot (d, false)

/-- The state after a draw that executes: `DRF` cleared, the cells toggled, VF the collision flag (R162). -/
def State.drawSprite (s : State) (x y : Reg) (n : Nat) : State :=
  let drawn := drawPixels s.disp (s.drawnPixels x y n)
  { s with drf := false, disp := drawn.1 }.setFlag drawn.2

/-- `DXYN`: stall while `DRF` is false (R163, D35); else bound-check all `N` rows, then draw (R162, D20). -/
def execDrwVxVyN (x y : Reg) (n : Fin 16) (s : State) : Result :=
  if s.drf then s.withBlock s.i.toNat n (.next (s.drawSprite x y n)) else .next s.rewind

end Sys2Proof.Machine
end

