-- ==== Sys2Proof/Machine/Index.lean ====
section
/-! DEFINITION. Index register and memory instructions (spec/42_index_memory.md). Data is addressed `I + k`, a natural
number; a block that leaves memory raises `OutOfRange` and commits nothing (R140, R56). -/

namespace Sys2Proof.Machine

/-- `ANNN`: `I <- NNN` (R141). -/
def execLdINnn (nnn : Addr12) (s : State) : Result := .next (s.setI (addressOf nnn))

/-- `FX1E`: `I <- (I + V[X]) mod 65536`, VF 1 when the unwrapped sum is above 0xFFF (R142, D13). -/
def execAddIVx (x : Reg) (s : State) : Result :=
  .next ((s.setI (BitVec.ofNat 16 (s.i.toNat + (s.reg x).toNat))).setFlag (pastAddressSpace s.i (s.reg x)))

/-- `FX29`: `I <- 0x050 + 5·V[X]` (R143). -/
def execLdFVx (x : Reg) (s : State) : Result := .next (s.setI (s.glyphAddress x))

/-- `FX33`: the three decimal digits of `V[X]` to `I`, `I + 1`, `I + 2` (R144). -/
def execLdBVx (x : Reg) (s : State) : Result :=
  s.withBlock s.i.toNat 3 (.next (s.setBytes s.i.toNat (decimalDigits (s.reg x))))

/-- `FX55`: store `V[0..X]` at `I`, then `I` moves past them or stays (R145). -/
def execLdMemIVx (x : Reg) (s : State) : Result :=
  s.withBlock s.i.toNat (x.val + 1) (.next ((s.setBytes s.i.toNat (s.regsUpTo x)).setI (s.indexAfterBlock x)))

/-- `FX65`: load `V[0..X]` from `I`, then `I` moves past them or stays (R146). -/
def execLdVxMemI (x : Reg) (s : State) : Result :=
  s.withBlock s.i.toNat (x.val + 1) (.next ((s.loadRegs (x.val + 1)).setI (s.indexAfterBlock x)))

end Sys2Proof.Machine
end

