-- ==== Sys2Proof/Machine/Keys.lean ====
section
/-! DEFINITION. Key and timer instructions (spec/44_keys_timers.md). -/

namespace Sys2Proof.Machine

/-- Skip on a test of the key `V[x]` names; an index above 15 raises `OutOfRange` with that index (R181, R182, D16). -/
def skipOnKey (x : Reg) (test : Bool → Bool) (s : State) : Result :=
  match s.keyOf x with
  | some k => .next (s.skipIf (test (s.keyDown k)))
  | none => raise .outOfRange ((s.reg x).setWidth 16) s

/-- `EX9E`: skip if key `V[X]` is pressed (R181). -/
def execSkpVx (x : Reg) (s : State) : Result := skipOnKey x id s

/-- `EXA1`: skip if key `V[X]` is not pressed (R182). -/
def execSknpVx (x : Reg) (s : State) : Result := skipOnKey x not s

/-- `FX07`: `V[X] <- DT` (R184). -/
def execLdVxDt (x : Reg) (s : State) : Result := .next (s.setReg x s.dt)

/-- `FX0A`: `V[X] <-` the least pressed key; with none pressed, re-execute at the next tick (R183, D33, D35). -/
def execLdVxK (x : Reg) (s : State) : Result :=
  match s.firstKeyDown with
  | some k => .next (s.setReg x (BitVec.ofNat 8 k))
  | none => .next s.rewind

/-- `FX15`: `DT <- V[X]` (R185). -/
def execLdDtVx (x : Reg) (s : State) : Result := .next { s with dt := s.reg x }

/-- `FX18`: `ST <- V[X]` (R186). -/
def execLdStVx (x : Reg) (s : State) : Result := .next { s with st := s.reg x }

end Sys2Proof.Machine
end

