-- ==== Sys2Proof/Machine/Step.lean ====
section
/-! DEFINITION. One tick (spec/30_encoding.md R70), and placing an instruction where the next tick fetches it. -/

namespace Sys2Proof.Machine

/-- One tick (R70): the checks of steps 1 to 3; fetch and decode at `pc`; then the instruction, on the advanced `pc`. -/
def step (s : State) : Host.Outcome State Fault Refusal :=
  match s.beforeFetch with
  | some r => r
  | none =>
    match s.fetch with
    | .error (c, info) => raise c info s.advance
    | .ok i => exec i s.advance

/-- `s` with the low `nbits` bits of `w` as the instruction word at `pc`, high byte first, and the core made ready to fetch
it: initialized, not faulted, `PEND` beyond the word (log 29). It stands for loading a program from outside. -/
def State.withFetchWord (s : State) (nbits w : Nat) : State :=
  let word := BitVec.ofNat 16 (w % 2 ^ nbits)
  { s.setBytes s.pc.toNat [word.extractLsb' 8 8, word.extractLsb' 0 8] with
    pend := max s.pend (s.pc.toNat + 2)
    init := true
    fault := none }

end Sys2Proof.Machine
end

