-- ==== Sys2Proof/Machine/Events.lean ====
section
/-! DEFINITION. The host's side (spec/70_reset_and_hazards.md R235): the atomic events, their order inside one clock, what a
session is in after each, and the read-outs. -/

namespace Sys2Proof.Machine

/-- What the host may do to the core (R235). A key index is always in 0..15, and there is no event that writes
registers, memory or parameters (D32, log 22). -/
inductive HostEvent where
  /-- `Reset(rom)` (R231). -/
  | reset (rom : List Byte)
  /-- `Tick(rnd)` (R70). -/
  | tick (rnd : Byte)
  /-- `Frame` (R212). -/
  | frame
  /-- `KeyDown(k)` (R215). -/
  | keyDown (k : Key)
  /-- `KeyUp(k)` (R215). -/
  | keyUp (k : Key)
deriving DecidableEq, Repr

/-- A countdown: minus one, floor at 0 (R212). -/
def countDown (t : Byte) : Byte := if 0 < t.toNat then t - 1 else 0

/-- `Frame` (R212, D21, log 18). -/
def State.frame (s : State) : State := { s with drf := true, dt := countDown s.dt, st := countDown s.st }

/-- `KeyDown(k)` (`down` true) or `KeyUp(k)` (R215). -/
def State.setKey (s : State) (k : Key) (down : Bool) : State := { s with key := s.key.set k down }

/-- `s` with other bytes supplied for the coming draws (log 8). -/
def State.withFeed (s : State) (f : List Byte) : State := { s with rndFeed := f }

/-- A fault with a change to the state it leaves. -/
def Fault.mapAfter (f : State → State) : Fault → Fault
  | .unknownOpcode t => .unknownOpcode (f t)
  | .stackUnderflow t => .stackUnderflow (f t)
  | .outOfRange t => .outOfRange (f t)
  | .stackOverflow t => .stackOverflow (f t)

/-- `Tick(rnd)`: the tick of R70 in which the random byte is `rnd`; what it does not use is gone afterwards, and the
bytes supplied for later draws are as they were (R235, log 8). -/
def tickWith (rnd : Byte) (s : State) : Result :=
  match step (s.withFeed [rnd]) with
  | .next t => .next (t.withFeed s.rndFeed)
  | .fault f => .fault (f.mapAfter (·.withFeed s.rndFeed))
  | .refused r => .refused r

/-- Frame and key events on an uninitialized core are no moves (R230, log 18); otherwise they look at neither `pc`,
`PEND` nor `FAULT` (R206, D34). -/
def onInitialized (s t : State) : Result := if s.init then .next t else .refused .notInitialized

/-- Reset: accepted, or refused when the ROM does not fit, leaving the core uninitialized (R231, R232, D7). -/
def resetEvent (rom : List Byte) (s : State) : Result :=
  if romFits rom then .next (s.resetWith rom) else .refused (.romTooLarge s.uninitialized)

/-- One event of the host (R235). -/
def hostEvent (e : HostEvent) (s : State) : Result :=
  match e with
  | .reset rom => resetEvent rom s
  | .tick rnd => tickWith rnd s
  | .frame => onInitialized s s.frame
  | .keyDown k => onInitialized s (s.setKey k true)
  | .keyUp k => onInitialized s (s.setKey k false)

/-- The state a refusal leaves: a refused tick or event changes nothing (R206), a refused Reset leaves the core
uninitialized (R232). -/
def Refusal.after (s : State) : Refusal → State
  | .romTooLarge t => t
  | _ => s

/-- What the session is in after an event that answered `r` on `s` (R205, R206, R232). -/
def sessionAfter (s : State) : Result → State
  | .next t => t
  | .fault f => f.after
  | .refused r => r.after s

/-- One event of a session. -/
def sessionStep (s : State) (e : HostEvent) : State := sessionAfter s (hostEvent e s)

/-- A session: any events in any order (R235). -/
def session (s : State) (es : List HostEvent) : State := es.foldl sessionStep s

/-- The event pulses of one clock of an indicative build (R236): at most one of each kind. -/
structure Pulses where
  reset : Option (List Byte)
  /-- Key index and whether it went down. -/
  key : Option (Key × Bool)
  frame : Bool
  tick : Option Byte
deriving DecidableEq, Repr

/-- Pulses that arrive in one clock act one after the other in the order Reset, key, Frame, Tick (R236, D2, log 28). -/
def Pulses.events (p : Pulses) : List HostEvent :=
  (p.reset.map HostEvent.reset).toList
    ++ (p.key.map fun (k, down) => if down then HostEvent.keyDown k else HostEvent.keyUp k).toList
    ++ (if p.frame then [HostEvent.frame] else [])
    ++ (p.tick.map HostEvent.tick).toList

/-- The conditions the host can see the core in (R219); a stall is a sub-case of running. -/
inductive Condition where
  | uninitialized
  | running
  | halted
  | faulted
deriving DecidableEq, Repr

/-- The condition of the core (R219). -/
def State.condition (s : State) : Condition :=
  if s.init = false then .uninitialized
  else if s.fault.isSome then .faulted
  else if s.halted then .halted
  else .running

/-- Running, and the instruction at `pc` is an `FX0A` with no key down or a `DXYN` with `DRF` false (R219). -/
def State.stalled (s : State) : Bool :=
  s.condition == .running &&
    match s.fetch with
    | .ok (.ldVxK _) => s.firstKeyDown.isNone
    | .ok (.drwVxVyN _ _ _) => !s.drf
    | _ => false

/-- What the host reads between ticks (R216), with the indicative `sound_active` (R214, D38, log 28). -/
structure ReadOut where
  disp : Display
  dt : Byte
  st : Byte
  halted : Bool
  fault : Option FaultRecord
  init : Bool
  soundActive : Bool
deriving DecidableEq, Repr

/-- The read-out: it changes nothing (R216). -/
def State.readOut (s : State) : ReadOut where
  disp := s.disp
  dt := s.dt
  st := s.st
  halted := s.halted
  fault := s.fault
  init := s.init
  soundActive := 0 < s.st.toNat

end Sys2Proof.Machine
end

