-- ==== Sys2Proof/Safety.lean ====
section
/-! DEFINITION. What counts as a safe run, in the terms the claims use: the good end of a run, the ranges of
spec/10_state.md R30, and being about to execute. -/

namespace Sys2Proof.Machine

/-- Neither uninitialized, nor faulted, nor halted: the next tick fetches (R70 steps 1 to 3). -/
def State.Running (s : State) : Prop := s.init = true ∧ s.fault = none ∧ s.pc.toNat < s.pend

/-- The one good end of a run (R240): initialized, no fault, `pc ≥ PEND`. -/
def State.GoodEnd (s : State) : Prop := s.init = true ∧ s.fault = none ∧ s.pend ≤ s.pc.toNat

/-- Memory is in its canonical form. -/
def State.MemWf (s : State) : Prop := s.mem.wf (resetByte s.cfg.font)

/-- The ranges that hold in every state a Reset leads to (R30), and the canonical form of memory. An uninitialized
core holds any value (R230), so nothing is said of it. -/
structure State.Ranges (s : State) : Prop where
  /-- R30 (a). -/
  pend : progBase ≤ s.pend ∧ s.pend ≤ memSize
  /-- R30 (b). -/
  pc : s.pc.toNat ≤ 0x10FE
  /-- R30 (c). -/
  stack : ∀ w ∈ s.stack, w.toNat ≤ 0x1001
  /-- R204: a stack of finite depth never holds more. -/
  depth : ∀ n, s.cfg.stackDepth = some n → s.stack.length ≤ n
  /-- Canonical memory. -/
  mem : s.MemWf

/-- R30 of a core that has been Reset. -/
def State.Inv (s : State) : Prop := s.init = true → s.Ranges

/-- Every byte of memory reads as before. -/
def SameBytes (s t : State) : Prop := ∀ a, t.byteAt a = s.byteAt a

/-- Every byte of memory outside the `n` bytes at `a` reads as before. -/
def SameBytesOutside (s t : State) (a n : Nat) : Prop := ∀ j, ¬(a ≤ j ∧ j < a + n) → t.byteAt j = s.byteAt j

/-- A register number as a 4-bit field of an instruction word (R61). -/
def nibble (r : Fin 16) : BitVec 4 := BitVec.ofFin r

/-- The instructions of spec/40_control_flow.md. -/
def isControl : Instr → Bool
  | .ret | .jp _ | .call _ | .seVxNn _ _ | .sneVxNn _ _ | .seVxVy _ _ | .sneVxVy _ _ | .jpV0Nnn _ => true
  | _ => false

/-- The instructions of spec/41_alu.md. -/
def isAlu : Instr → Bool
  | .ldVxNn _ _ | .addVxNn _ _ | .ldVxVy _ _ | .orVxVy _ _ | .andVxVy _ _ | .xorVxVy _ _ | .addVxVy _ _
  | .subVxVy _ _ | .shrVxVy _ _ | .subnVxVy _ _ | .shlVxVy _ _ | .rndVxNn _ _ => true
  | _ => false

/-- The instructions of spec/42_index_memory.md. -/
def isIndex : Instr → Bool
  | .ldINnn _ | .addIVx _ | .ldFVx _ | .ldBVx _ | .ldMemIVx _ | .ldVxMemI _ => true
  | _ => false

/-- The instructions of spec/43_display.md. -/
def isDisplay : Instr → Bool
  | .cls | .drwVxVyN _ _ _ => true
  | _ => false

/-- The instructions of spec/44_keys_timers.md. -/
def isKeyTimer : Instr → Bool
  | .skpVx _ | .sknpVx _ | .ldVxK _ | .ldVxDt _ | .ldDtVx _ | .ldStVx _ => true
  | _ => false

/-- `DXYN`. -/
def isDraw : Instr → Bool
  | .drwVxVyN _ _ _ => true
  | _ => false

/-- What an instruction answered, with the same change made to whichever state it answers with. -/
def onResult (f : State → State) : Result → Result
  | .next t => .next (f t)
  | .fault r => .fault (r.mapAfter f)
  | .refused r => .refused r

/-- A set bit of the `n`-row sprite at `I`, drawn at the origin `(V[x] mod 64, V[y] mod 32)`, lands on the cell `p`: row
`r` and column `c` of the sprite, bit 7 the leftmost; dropped or wrapped past the edges (R162, R164, R165). -/
def State.Covers (s : State) (x y : Reg) (n : Nat) (p : Pixel) : Prop :=
  ∃ r < n, ∃ c < 8, (s.byteAt (s.i.toNat + r)).getLsbD (7 - c) = true ∧
    if s.cfg.clipping then
      (s.reg x).toNat % 64 + c = p.1 ∧ (s.reg y).toNat % 32 + r = p.2
    else
      ((s.reg x).toNat % 64 + c) % 64 = p.1 ∧ ((s.reg y).toNat % 32 + r) % 32 = p.2

end Sys2Proof.Machine
end

