-- ==== Sys2Proof/Certificates/Slice0/Obligations.lean ====
section
/-! DEFINITION. The statements about the machine. An instruction is stated on the state of its execute phase, whose `pc` the
fetch has already advanced (spec/30_encoding.md R70); `StepRunsFetchedInstruction` ties that to a tick. An encoding is
written digit by digit, high digit first (R61). -/

open Sys2Proof Sys2Proof.Machine

/-! ### Encoding -/

/-- Words written out bit by bit from the patterns of R66, at least one of each family, and two that are no instruction. -/
def Obligations.WrittenOutWordsDecode : Prop :=
  decodeWord 0b0000000011100000 = .ok .cls ∧
  decodeWord 0b0000000011101110 = .ok .ret ∧
  decodeWord 0b0001001000110100 = .ok (.jp 0x234) ∧
  decodeWord 0b0010101010111100 = .ok (.call 0xABC) ∧
  decodeWord 0b0011001100101010 = .ok (.seVxNn 3 0x2A) ∧
  decodeWord 0b0100001100101010 = .ok (.sneVxNn 3 0x2A) ∧
  decodeWord 0b0101000100100000 = .ok (.seVxVy 1 2) ∧
  decodeWord 0b0110000000001010 = .ok (.ldVxNn 0 0x0A) ∧
  decodeWord 0b0111001000100000 = .ok (.addVxNn 2 0x20) ∧
  decodeWord 0b1000000000010100 = .ok (.addVxVy 0 1) ∧
  decodeWord 0b1000000000011110 = .ok (.shlVxVy 0 1) ∧
  decodeWord 0b1001000100100000 = .ok (.sneVxVy 1 2) ∧
  decodeWord 0b1010001011110000 = .ok (.ldINnn 0x2F0) ∧
  decodeWord 0b1011001100000000 = .ok (.jpV0Nnn 0x300) ∧
  decodeWord 0b1100001100001111 = .ok (.rndVxNn 3 0x0F) ∧
  decodeWord 0b1101000000010101 = .ok (.drwVxVyN 0 1 5) ∧
  decodeWord 0b1110001010011110 = .ok (.skpVx 2) ∧
  decodeWord 0b1111001001100101 = .ok (.ldVxMemI 2) ∧
  decodeWord 0b0000000000000000 = .error (.unknownOpcode 0) ∧
  decodeWord 0b0101000100100001 = .error (.unknownOpcode 0x5121)

/-- Every instruction comes back from its two bytes, with every operand, and the bytes after it are left (R60, R61, R66). -/
def Obligations.DecodeOfEncodeIsTheInstruction : Prop :=
  ∀ (i : Instr) (rest : List Byte), decode (encode i ++ rest) = .ok (i, rest)

/-- A word that decodes is the word of its instruction: decoding drops no bit, so two words never mean the same (R61, R65). -/
def Obligations.EncodeOfDecodeIsTheWord : Prop :=
  ∀ (w : Word) (i : Instr), decodeWord w = .ok i → encodeWord i = w

/-- R65: the rows are pairwise disjoint, so the order of testing does not matter. -/
def Obligations.OpcodeRowsAreDisjoint : Prop :=
  opcodeTable.length = 34 ∧
  opcodeTable.Pairwise (fun r r' => r.mnemonic ≠ r'.mnemonic ∧ ∀ w, ¬(r.selects w = true ∧ r'.selects w = true)) ∧
  ∀ r ∈ opcodeTable, ∀ w, r.selects w = true → decodeWord w = .ok (r.build w)

/-- Which words are instructions, by family and digits (R68; strict matching is the spec's own decision D10, log 10). -/
def Obligations.WordsThatDecode : Prop :=
  ∀ f x y n : BitVec 4, (∃ i, decodeWord (f ++ x ++ y ++ n) = .ok i) ↔
    (f = 0 ∧ x = 0 ∧ y = 0xE ∧ (n = 0 ∨ n = 0xE)) ∨
    f = 1 ∨ f = 2 ∨ f = 3 ∨ f = 4 ∨ f = 6 ∨ f = 7 ∨ f = 0xA ∨ f = 0xB ∨ f = 0xC ∨ f = 0xD ∨
    (f = 5 ∧ n = 0) ∨ (f = 9 ∧ n = 0) ∨
    (f = 8 ∧ (n.toNat ≤ 7 ∨ n = 0xE)) ∨
    (f = 0xE ∧ ((y = 9 ∧ n = 0xE) ∨ (y = 0xA ∧ n = 1))) ∨
    (f = 0xF ∧ ((y = 0 ∧ (n = 7 ∨ n = 0xA)) ∨ (y = 1 ∧ (n = 5 ∨ n = 8 ∨ n = 0xE)) ∨ (y = 2 ∧ n = 9) ∨
      (y = 3 ∧ n = 3) ∨ (y = 5 ∧ n = 5) ∨ (y = 6 ∧ n = 5)))

/-! ### The tick -/

/-- When the two bytes at `pc` decode, the tick runs that instruction on the advanced `pc` (R70; bytes high first, R44). -/
def Obligations.StepRunsFetchedInstruction : Prop :=
  ∀ (s : State) (i : Instr), s.Running → s.pc.toNat + 1 < 4096 →
    decode [s.byteAt s.pc.toNat, s.byteAt (s.pc.toNat + 1)] = .ok (i, []) →
    step s = exec i { s with pc := s.pc + 2 }

/-- A fetch that leaves memory, or a word that is no instruction, is a fault that latches its record and changes nothing
else (R68, R70, R201, R203, R205). That a faulting tick commits nothing, the codes, and the fault of a fetch at 0xFFF are
the spec's own decisions D8, D9, D36 (logs 9, 12). -/
def Obligations.FetchFaults : Prop :=
  ∀ (s : State), s.Running →
    (∀ w : Word, s.pc.toNat + 1 < 4096 → s.byteAt s.pc.toNat ++ s.byteAt (s.pc.toNat + 1) = w → (∀ i, decodeWord w ≠ .ok i) →
      step s = .fault (.unknownOpcode { s with fault := some ⟨.unknownOpcode, s.pc, w⟩ })) ∧
    (s.pc = 0xFFF → step s = .fault (.outOfRange { s with fault := some ⟨.outOfRange, s.pc, 0x1000⟩ }))

/-- From a good end on, any number of ticks changes nothing (R24, R240; the exact test `pc ≥ PEND` is D30, log 21). -/
def Obligations.HaltedTicksChangeNothing : Prop :=
  ∀ (s : State) (n : Nat), s.GoodEnd → Sys2Proof.core.run n s = .next s

/-- A tick is refused exactly when the core is uninitialized or faulted, the first reason first (R206, R208, R220; the
spec's own decisions D2, D26, log 25). -/
def Obligations.RefusedTicks : Prop :=
  ∀ (s : State),
    (s.init = false → step s = .refused .notInitialized) ∧
    (s.init = true → s.fault ≠ none → step s = .refused .alreadyFaulted) ∧
    (s.init = true → s.fault = none → ∀ r, step s ≠ .refused r)

/-- R239: every tick of an initialized, unfaulted core answers a next state or a fault, and no tick sets `DRF` or a
key on its own. -/
def Obligations.TicksProgressAndNeverWakeThemselves : Prop :=
  ∀ (s : State), s.init = true → s.fault = none →
    ((∃ t, step s = .next t) ∨ ∃ f, step s = .fault f) ∧
    ∀ t, step s = .next t → (t.drf = true → s.drf = true) ∧ t.key = s.key

/-- A blocked `FX0A`, a gated `DXYN` and the halted condition are no exceptions: the next state is the present one (R210). That
a stall leaves the present state in every element is the spec's own decision D35 (log 23), and the exact halt test D30 (log 21). -/
def Obligations.StallsAndHaltsAreNoExceptions : Prop :=
  ∀ (s : State), (s.stalled = true → step s = .next s) ∧ (s.condition = .halted → step s = .next s)

/-! ### Control transfer -/

/-- R102, R104: the jumps replace `pc`, by `NNN` and by `NNN + V[0]` without reduction, and change nothing else; a target of
`PEND` or more halts the core at the next tick. -/
def Obligations.JumpsReplacePc : Prop :=
  ∀ (nnn : Addr12) (s : State),
    (decodeWord (0x1#4 ++ nnn) = .ok (.jp nnn) ∧
      ∃ t, exec (.jp nnn) s = .next t ∧ t.pc = 0#4 ++ nnn ∧ t = { s with pc := t.pc } ∧ SameBytes s t ∧
        (s.init = true → s.fault = none → s.pend ≤ t.pc.toNat → step t = .next t)) ∧
    (decodeWord (0xB#4 ++ nnn) = .ok (.jpV0Nnn nnn) ∧
      ∃ t, exec (.jpV0Nnn nnn) s = .next t ∧ t.pc.toNat = nnn.toNat + (s.reg 0).toNat ∧ t = { s with pc := t.pc } ∧
        SameBytes s t ∧ (s.init = true → s.fault = none → s.pend ≤ t.pc.toNat → step t = .next t))

/-- `2NNN` pushes the advanced `pc` and jumps; on a full stack of finite depth it faults and commits nothing (R103, R204,
R205). The finite depth and the commit-nothing are the spec's own decisions D3, D8 (logs 3, 9). -/
def Obligations.CallPushesReturnAddress : Prop :=
  ∀ (nnn : Addr12) (s : State), decodeWord (0x2#4 ++ nnn) = .ok (.call nnn) ∧
    ((∀ n, s.cfg.stackDepth = some n → s.stack.length < n) →
      ∃ t, exec (.call nnn) s = .next t ∧ t.stack = s.pc :: s.stack ∧ t.pc = 0#4 ++ nnn ∧
        t = { s with pc := t.pc, stack := t.stack } ∧ SameBytes s t) ∧
    (∀ n, s.cfg.stackDepth = some n → n ≤ s.stack.length →
      exec (.call nnn) s =
        .fault (.stackOverflow { s with pc := s.pc - 2, fault := some ⟨.stackOverflow, s.pc - 2, 0⟩ }))

/-- `00EE` pops into `pc`; on an empty stack it faults and commits nothing (R101, R202, R205; D8, log 9). -/
def Obligations.ReturnPopsOrUnderflows : Prop :=
  decodeWord (0x0#4 ++ 0x0#4 ++ 0xE#4 ++ 0xE#4) = .ok .ret ∧ ∀ (s : State),
    (∀ w ws, s.stack = w :: ws →
      ∃ t, exec .ret s = .next t ∧ t.pc = w ∧ t.stack = ws ∧ t = { s with pc := t.pc, stack := t.stack } ∧
        SameBytes s t) ∧
    (s.stack = [] → exec .ret s =
      .fault (.stackUnderflow { s with pc := s.pc - 2, fault := some ⟨.stackUnderflow, s.pc - 2, 0⟩ }))

/-- The call stack is last in, first out: a call, any other change that leaves the stack alone, and a return come back to the
instruction after the call with the stack as it was (R14, R101, R103, C3). -/
def Obligations.CallThenReturnComesBack : Prop :=
  ∀ (nnn : Addr12) (s t t' : State), exec (.call nnn) s = .next t → t'.stack = t.stack →
    ∃ u, exec .ret t' = .next u ∧ u.pc = s.pc ∧ u.stack = s.stack

/-- R105, R106: the skips on an immediate add 2 to the advanced `pc` when their condition holds, and change nothing else. -/
def Obligations.SkipsOnImmediate : Prop :=
  ∀ (x : Reg) (nn : Byte) (s : State),
    (decodeWord (0x3#4 ++ nibble x ++ nn) = .ok (.seVxNn x nn) ∧
      ∃ t, exec (.seVxNn x nn) s = .next t ∧ t.pc = (if s.reg x = nn then s.pc + 2 else s.pc) ∧
        t = { s with pc := t.pc } ∧ SameBytes s t) ∧
    (decodeWord (0x4#4 ++ nibble x ++ nn) = .ok (.sneVxNn x nn) ∧
      ∃ t, exec (.sneVxNn x nn) s = .next t ∧ t.pc = (if s.reg x ≠ nn then s.pc + 2 else s.pc) ∧
        t = { s with pc := t.pc } ∧ SameBytes s t)

/-- R107, R108: the skips on two registers; a word of the same digits with another last digit is no instruction. -/
def Obligations.SkipsOnRegisters : Prop :=
  ∀ (x y : Reg) (s : State),
    (decodeWord (0x5#4 ++ nibble x ++ nibble y ++ 0x0#4) = .ok (.seVxVy x y) ∧
      (∀ n : BitVec 4, n ≠ 0 → ∀ i, decodeWord (0x5#4 ++ nibble x ++ nibble y ++ n) ≠ .ok i) ∧
      ∃ t, exec (.seVxVy x y) s = .next t ∧ t.pc = (if s.reg x = s.reg y then s.pc + 2 else s.pc) ∧
        t = { s with pc := t.pc } ∧ SameBytes s t) ∧
    (decodeWord (0x9#4 ++ nibble x ++ nibble y ++ 0x0#4) = .ok (.sneVxVy x y) ∧
      (∀ n : BitVec 4, n ≠ 0 → ∀ i, decodeWord (0x9#4 ++ nibble x ++ nibble y ++ n) ≠ .ok i) ∧
      ∃ t, exec (.sneVxVy x y) s = .next t ∧ t.pc = (if s.reg x ≠ s.reg y then s.pc + 2 else s.pc) ∧
        t = { s with pc := t.pc } ∧ SameBytes s t)

/-! ### Register loads, arithmetic, logic, shifts, random -/

/-- R122, R124: the loads write their destination register and nothing else; VF is an ordinary destination. -/
def Obligations.LoadsAndMoves : Prop :=
  ∀ (x y : Reg) (nn : Byte) (s : State),
    (decodeWord (0x6#4 ++ nibble x ++ nn) = .ok (.ldVxNn x nn) ∧
      ∃ t, exec (.ldVxNn x nn) s = .next t ∧ t.reg x = nn ∧ (∀ r, r ≠ x → t.reg r = s.reg r) ∧
        t = { s with v := t.v } ∧ SameBytes s t) ∧
    (decodeWord (0x8#4 ++ nibble x ++ nibble y ++ 0x0#4) = .ok (.ldVxVy x y) ∧
      ∃ t, exec (.ldVxVy x y) s = .next t ∧ t.reg x = s.reg y ∧ (∀ r, r ≠ x → t.reg r = s.reg r) ∧
        t = { s with v := t.v } ∧ SameBytes s t)

/-- R123: `7XNN` adds modulo 256; no flag: VF changes only as the destination. -/
def Obligations.AddImmediateLosesTheCarry : Prop :=
  ∀ (x : Reg) (nn : Byte) (s : State), decodeWord (0x7#4 ++ nibble x ++ nn) = .ok (.addVxNn x nn) ∧
    ∃ t, exec (.addVxNn x nn) s = .next t ∧ (t.reg x).toNat = ((s.reg x).toNat + nn.toNat) % 256 ∧
      (∀ r, r ≠ x → t.reg r = s.reg r) ∧ t = { s with v := t.v } ∧ SameBytes s t

/-- `8XY1`, `8XY2`, `8XY3`: the bitwise result, and VF 0 always (R125 to R127). With `X = 0xF` the result is discarded; the old
VF is an operand when it is named, which is the spec's own decision D15 (log 14). -/
def Obligations.LogicForcesVfToZero : Prop :=
  ∀ (x y : Reg) (s : State),
    (decodeWord (0x8#4 ++ nibble x ++ nibble y ++ 0x1#4) = .ok (.orVxVy x y) ∧
      ∃ t, exec (.orVxVy x y) s = .next t ∧ t.reg 15 = 0 ∧
        (x ≠ 15 → ∀ k < 8, (t.reg x).getLsbD k = ((s.reg x).getLsbD k || (s.reg y).getLsbD k)) ∧
        (∀ r, r ≠ x → r ≠ 15 → t.reg r = s.reg r) ∧ t = { s with v := t.v } ∧ SameBytes s t) ∧
    (decodeWord (0x8#4 ++ nibble x ++ nibble y ++ 0x2#4) = .ok (.andVxVy x y) ∧
      ∃ t, exec (.andVxVy x y) s = .next t ∧ t.reg 15 = 0 ∧
        (x ≠ 15 → ∀ k < 8, (t.reg x).getLsbD k = ((s.reg x).getLsbD k && (s.reg y).getLsbD k)) ∧
        (∀ r, r ≠ x → r ≠ 15 → t.reg r = s.reg r) ∧ t = { s with v := t.v } ∧ SameBytes s t) ∧
    (decodeWord (0x8#4 ++ nibble x ++ nibble y ++ 0x3#4) = .ok (.xorVxVy x y) ∧
      ∃ t, exec (.xorVxVy x y) s = .next t ∧ t.reg 15 = 0 ∧
        (x ≠ 15 → ∀ k < 8, (t.reg x).getLsbD k = ((s.reg x).getLsbD k != (s.reg y).getLsbD k)) ∧
        (∀ r, r ≠ x → r ≠ 15 → t.reg r = s.reg r) ∧ t = { s with v := t.v } ∧ SameBytes s t)

/-- `8XY4`: result and carry together are the exact sum of the values before; VF is the carry, whichever register the
result goes to (R128). VF with `X = 0xF`, and reading before writing, are the spec's own decisions D14, D15 (log 14). -/
def Obligations.AddSetsCarry : Prop :=
  ∀ (x y : Reg) (s : State), decodeWord (0x8#4 ++ nibble x ++ nibble y ++ 0x4#4) = .ok (.addVxVy x y) ∧
    ∃ t, exec (.addVxVy x y) s = .next t ∧
      (t.reg 15).toNat = (if (s.reg x).toNat + (s.reg y).toNat > 255 then 1 else 0) ∧
      (x ≠ 15 → (t.reg x).toNat + 256 * (t.reg 15).toNat = (s.reg x).toNat + (s.reg y).toNat) ∧
      (∀ r, r ≠ x → r ≠ 15 → t.reg r = s.reg r) ∧ t = { s with v := t.v } ∧ SameBytes s t

/-- `8XY5` and `8XY7`: the difference modulo 256, and VF 1 exactly when there is no borrow (R129, R131; D14, D15, log 14). -/
def Obligations.SubtractsSetNotBorrow : Prop :=
  ∀ (x y : Reg) (s : State),
    (decodeWord (0x8#4 ++ nibble x ++ nibble y ++ 0x5#4) = .ok (.subVxVy x y) ∧
      ∃ t, exec (.subVxVy x y) s = .next t ∧
        (t.reg 15).toNat = (if (s.reg x).toNat ≥ (s.reg y).toNat then 1 else 0) ∧
        (x ≠ 15 → (t.reg x).toNat + (s.reg y).toNat + 256 * (t.reg 15).toNat = (s.reg x).toNat + 256) ∧
        (∀ r, r ≠ x → r ≠ 15 → t.reg r = s.reg r) ∧ t = { s with v := t.v } ∧ SameBytes s t) ∧
    (decodeWord (0x8#4 ++ nibble x ++ nibble y ++ 0x7#4) = .ok (.subnVxVy x y) ∧
      ∃ t, exec (.subnVxVy x y) s = .next t ∧
        (t.reg 15).toNat = (if (s.reg y).toNat ≥ (s.reg x).toNat then 1 else 0) ∧
        (x ≠ 15 → (t.reg x).toNat + (s.reg x).toNat + 256 * (t.reg 15).toNat = (s.reg y).toNat + 256) ∧
        (∀ r, r ≠ x → r ≠ 15 → t.reg r = s.reg r) ∧ t = { s with v := t.v } ∧ SameBytes s t)

/-- `8XY6` and `8XYE`: the value shifted is `V[Y]` with `cfg.shift_copy` and `V[X]` without; result and VF together are that
value, halved or doubled exactly (R130, R132; C8; D14, D15, log 14; both values of the option, D23, log 1). -/
def Obligations.ShiftsByOne : Prop :=
  ∀ (x y : Reg) (s : State) (t0 : Byte), t0 = (if s.cfg.shiftCopy then s.reg y else s.reg x) →
    (decodeWord (0x8#4 ++ nibble x ++ nibble y ++ 0x6#4) = .ok (.shrVxVy x y) ∧
      ∃ t, exec (.shrVxVy x y) s = .next t ∧ (t.reg 15).toNat = t0.toNat % 2 ∧
        (x ≠ 15 → 2 * (t.reg x).toNat + (t.reg 15).toNat = t0.toNat) ∧
        (∀ r, r ≠ x → r ≠ 15 → t.reg r = s.reg r) ∧ t = { s with v := t.v } ∧ SameBytes s t) ∧
    (decodeWord (0x8#4 ++ nibble x ++ nibble y ++ 0xE#4) = .ok (.shlVxVy x y) ∧
      ∃ t, exec (.shlVxVy x y) s = .next t ∧ (t.reg 15).toNat = t0.toNat / 128 ∧
        (x ≠ 15 → (t.reg x).toNat + 256 * (t.reg 15).toNat = 2 * t0.toNat) ∧
        (∀ r, r ≠ x → r ≠ 15 → t.reg r = s.reg r) ∧ t = { s with v := t.v } ∧ SameBytes s t)

/-- `CXNN`: `NN AND rnd`, for every random byte: each bit that is 0 in `NN` is 0 in the result, and a byte the host supplied is
the one used (R133). That `rnd` is a free value is the spec's own decision D22; the fields that supply it are the
model's (log 8). -/
def Obligations.RandomUnderMask : Prop :=
  ∀ (x : Reg) (nn : Byte) (s : State), decodeWord (0xC#4 ++ nibble x ++ nn) = .ok (.rndVxNn x nn) ∧
    ∃ t, exec (.rndVxNn x nn) s = .next t ∧ (∀ k, nn.getLsbD k = false → (t.reg x).getLsbD k = false) ∧
      (∀ rnd later, s.rndFeed = rnd :: later → t.reg x = nn &&& rnd ∧ t.rndFeed = later) ∧
      (∀ r, r ≠ x → t.reg r = s.reg r) ∧ t = { s with v := t.v, rndFeed := t.rndFeed, draws := t.draws } ∧
      SameBytes s t

/-- `Tick(rnd)` of a `CXNN`: for every `rnd`, `V[X]` becomes `NN AND rnd`, `pc` advances, and nothing else changes (R70,
R133, R235; D22, log 8). -/
def Obligations.TickDrawsTheHostsByte : Prop :=
  ∀ (s : State) (x : Reg) (nn rnd : Byte), s.Running → s.fetch = .ok (.rndVxNn x nn) →
    ∃ t, hostEvent (.tick rnd) s = .next t ∧ t.reg x = nn &&& rnd ∧ (∀ r, r ≠ x → t.reg r = s.reg r) ∧
      t = { s with v := t.v, pc := s.pc + 2 } ∧ SameBytes s t

/-- `rnd` is used by `CXNN` only and ignored otherwise: two ticks that differ in it alone answer the same (R70, R72). -/
def Obligations.OtherTicksIgnoreTheRandomByte : Prop :=
  ∀ (s : State) (r r' : Byte), (∀ x nn, s.fetch ≠ .ok (.rndVxNn x nn)) →
    hostEvent (.tick r) s = hostEvent (.tick r') s

/-- No instruction of spec/41_alu.md raises anything, and none touches memory, `I`, `pc`, the stack, the display, timers or
keys (R120). The two fields of the random byte are the model's own (log 8). -/
def Obligations.AluNeverFaults : Prop :=
  ∀ (i : Instr) (s : State), isAlu i = true →
    ∃ t, exec i s = .next t ∧ t = { s with v := t.v, rndFeed := t.rndFeed, draws := t.draws } ∧ SameBytes s t

/-! ### Index register and memory -/

/-- R141: `ANNN` sets `I` to the zero-extended immediate and changes nothing else. -/
def Obligations.LoadIndex : Prop :=
  ∀ (nnn : Addr12) (s : State), decodeWord (0xA#4 ++ nnn) = .ok (.ldINnn nnn) ∧
    ∃ t, exec (.ldINnn nnn) s = .next t ∧ t.i = 0#4 ++ nnn ∧ t = { s with i := t.i } ∧ SameBytes s t

/-- `FX1E`: `I` is the sum modulo 65536, VF says whether the unwrapped sum is above 0xFFF (R142). That `I` keeps 16 bits and VF
looks at the unwrapped sum is the spec's own decision D13 (log 13); `X = 0xF` is D14, D15 (log 14). -/
def Obligations.AddToIndexFlagsOverflow : Prop :=
  ∀ (x : Reg) (s : State), decodeWord (0xF#4 ++ nibble x ++ 0x1#4 ++ 0xE#4) = .ok (.addIVx x) ∧
    ∃ t, exec (.addIVx x) s = .next t ∧ t.i.toNat = (s.i.toNat + (s.reg x).toNat) % 65536 ∧
      (t.reg 15).toNat = (if s.i.toNat + (s.reg x).toNat > 0xFFF then 1 else 0) ∧
      (∀ r, r ≠ 15 → t.reg r = s.reg r) ∧ t = { s with i := t.i, v := t.v } ∧ SameBytes s t

/-- `FX29`: `I` is `0x050 + 5·V[X]` on all 8 bits of `V[X]` (R143; no masking is the spec's own decision D17, log 16). Wherever
the bytes from 0x050 to 0x09F are the font, as every Reset leaves them (R28, `ResetLeavesTheListedValues`), whatever the ROM,
the five bytes at `I` are glyph `V[X]`, for `V[X] ≤ 0xF`. -/
def Obligations.GlyphAddress : Prop :=
  ∀ (x : Reg) (s : State), decodeWord (0xF#4 ++ nibble x ++ 0x2#4 ++ 0x9#4) = .ok (.ldFVx x) ∧
    ∃ t, exec (.ldFVx x) s = .next t ∧ t.i.toNat = 0x50 + 5 * (s.reg x).toNat ∧ t = { s with i := t.i } ∧
      SameBytes s t ∧
      ((∀ k (h : k < 80), s.byteAt (0x50 + k) = s.cfg.font[k]) →
        ∀ k (_ : k < 5) (h : 5 * (s.reg x).toNat + k < 80),
          t.byteAt (t.i.toNat + k) = s.cfg.font[5 * (s.reg x).toNat + k])

/-- `FX33`: three decimal digits, hundreds first, at `I`, `I + 1`, `I + 2`, and nothing else changes (R144; the order is the
spec's own decision D27, log 19). -/
def Obligations.DigitsAreStored : Prop :=
  ∀ (x : Reg) (s : State), decodeWord (0xF#4 ++ nibble x ++ 0x3#4 ++ 0x3#4) = .ok (.ldBVx x) ∧
    (s.i.toNat + 2 < 4096 →
      ∃ t, exec (.ldBVx x) s = .next t ∧
        100 * (t.byteAt s.i.toNat).toNat + 10 * (t.byteAt (s.i.toNat + 1)).toNat + (t.byteAt (s.i.toNat + 2)).toNat
          = (s.reg x).toNat ∧
        (t.byteAt (s.i.toNat + 1)).toNat ≤ 9 ∧ (t.byteAt (s.i.toNat + 2)).toNat ≤ 9 ∧
        SameBytesOutside s t s.i.toNat 3 ∧ t = { s with mem := t.mem })

/-- `FX55`: `V[0..X]` at `I`, `I + 1`, …; `I` moves past them with `cfg.store_load_increment` and stays without; nothing else
changes (R145; the value `I + X + 1` is the spec's own decision D37, log 24). -/
def Obligations.RegistersAreStored : Prop :=
  ∀ (x : Reg) (s : State), decodeWord (0xF#4 ++ nibble x ++ 0x5#4 ++ 0x5#4) = .ok (.ldMemIVx x) ∧
    (s.i.toNat + x.val < 4096 →
      ∃ t, exec (.ldMemIVx x) s = .next t ∧ (∀ r : Reg, r ≤ x → t.byteAt (s.i.toNat + r.val) = s.reg r) ∧
        SameBytesOutside s t s.i.toNat (x.val + 1) ∧
        t.i.toNat = (if s.cfg.storeLoadIncrement then s.i.toNat + x.val + 1 else s.i.toNat) ∧
        t = { s with mem := t.mem, i := t.i })

/-- `FX65`: `V[0..X]` from `I`, `I + 1`, …; `I` as after `FX55`; the registers above `V[X]`, memory and all else unchanged
(R146; D37, log 24). -/
def Obligations.RegistersAreLoaded : Prop :=
  ∀ (x : Reg) (s : State), decodeWord (0xF#4 ++ nibble x ++ 0x6#4 ++ 0x5#4) = .ok (.ldVxMemI x) ∧
    (s.i.toNat + x.val < 4096 →
      ∃ t, exec (.ldVxMemI x) s = .next t ∧ (∀ r : Reg, r ≤ x → t.reg r = s.byteAt (s.i.toNat + r.val)) ∧
        (∀ r : Reg, x < r → t.reg r = s.reg r) ∧
        t.i.toNat = (if s.cfg.storeLoadIncrement then s.i.toNat + x.val + 1 else s.i.toNat) ∧
        t = { s with v := t.v, i := t.i } ∧ SameBytes s t)

/-- `FX55`, then `FX65` from the same `I` with any registers in between, gives the registers back, and `I` ends where the quirk
says (R146's round trip). -/
def Obligations.StoreThenLoadGivesRegistersBack : Prop :=
  ∀ (x : Reg) (s : State) (v' : Vector Byte 16), s.i.toNat + x.val < 4096 →
    ∃ t u, exec (.ldMemIVx x) s = .next t ∧ exec (.ldVxMemI x) { t with v := v', i := s.i } = .next u ∧
      (∀ r : Reg, r ≤ x → u.reg r = s.reg r) ∧ (∀ r : Reg, x < r → u.reg r = v'[r]) ∧ u.i = t.i

/-- A block that leaves memory: `FX33`, `FX55`, `FX65`, and a `DXYN` that executes, fault with the first address of 4096 or
more, and commit nothing (R56, R203, R205). No wrap, the order of the checks, the reading of clipped rows and
commit-nothing are the spec's own decisions D8, D12, D20 (logs 9, 12, 17). -/
def Obligations.BlocksFaultPastMemory : Prop :=
  ∀ (x y : Reg) (n : Fin 16) (s : State) (f : Fault),
    f = .outOfRange { s with pc := s.pc - 2, fault := some ⟨.outOfRange, s.pc - 2, BitVec.ofNat 16 (max s.i.toNat 4096)⟩ } →
    (4096 ≤ s.i.toNat + 2 → exec (.ldBVx x) s = .fault f) ∧
    (4096 ≤ s.i.toNat + x.val → exec (.ldMemIVx x) s = .fault f ∧ exec (.ldVxMemI x) s = .fault f) ∧
    (s.drf = true → 1 ≤ n.val → 4096 ≤ s.i.toNat + (n.val - 1) → exec (.drwVxVyN x y n) s = .fault f)

/-- A store is seen by the next fetch: two registers stored over the next instruction are the word fetched there, the lower
register the high byte (R44, R54). -/
def Obligations.StoreIsSeenByTheNextFetch : Prop :=
  ∀ (x : Reg) (s : State), 1 ≤ x.val → s.i = s.pc → s.i.toNat + x.val < 4096 → s.Running →
    ∃ t, exec (.ldMemIVx x) s = .next t ∧
      (∀ i, decode [s.reg 0, s.reg 1] = .ok (i, []) → step t = exec i { t with pc := s.pc + 2 })

/-! ### Display -/

/-- R161: `00E0` clears every cell, whatever `DRF` holds, and changes nothing else. -/
def Obligations.ClearDisplay : Prop :=
  decodeWord (0x0#4 ++ 0x0#4 ++ 0xE#4 ++ 0x0#4) = .ok .cls ∧ ∀ (s : State),
    ∃ t, exec .cls s = .next t ∧ (∀ p, cellAt t.disp p = false) ∧ t = { s with disp := t.disp } ∧ SameBytes s t

/-- `DXYN` with `DRF` set: exactly the cells its set bits land on are toggled, VF says whether one of them held 1 before, `DRF`
is cleared, and nothing else changes (R162, R164 to R168). The wrap geometry, bit 7 leftmost and VF last are the spec's
own decisions D14, D15, D18, D19 (logs 14, 17). -/
def Obligations.DrawTogglesTheCoveredCells : Prop :=
  ∀ (x y : Reg) (n : Fin 16) (s : State),
    decodeWord (0xD#4 ++ nibble x ++ nibble y ++ nibble n) = .ok (.drwVxVyN x y n) ∧
    (s.drf = true → n.val = 0 ∨ s.i.toNat + (n.val - 1) < 4096 →
      ∃ t, exec (.drwVxVyN x y n) s = .next t ∧
        (∀ p, s.Covers x y n p → cellAt t.disp p = !cellAt s.disp p) ∧
        (∀ p, ¬s.Covers x y n p → cellAt t.disp p = cellAt s.disp p) ∧
        ((∃ p, s.Covers x y n p ∧ cellAt s.disp p = true) → t.reg 15 = 1) ∧
        ((¬∃ p, s.Covers x y n p ∧ cellAt s.disp p = true) → t.reg 15 = 0) ∧
        (∀ r, r ≠ 15 → t.reg r = s.reg r) ∧
        t = { s with v := t.v, disp := t.disp, drf := false } ∧ SameBytes s t)

/-- `DXYN` with `DRF` clear stalls, even with `I` outside memory: `pc` is `this_pc` again and nothing else changes (R163; the
exact state is the spec's own decision D35, log 23). -/
def Obligations.DrawWithoutFrameStalls : Prop :=
  ∀ (x y : Reg) (n : Fin 16) (s : State), s.drf = false →
    exec (.drwVxVyN x y n) s = .next { s with pc := s.pc - 2 }

/-- Two draws of the same sprite at the same origin, a Frame between them, restore the display, and the second one's VF says
whether the first had lit a cell (R168). Which cells are covered is the spec's own decisions D18, D19 (log 17), VF written last
D14 (log 14), and the Frame as one event D21 (log 18). -/
def Obligations.DrawTwiceRestoresTheDisplay : Prop :=
  ∀ (x y x' y' : Reg) (n : Fin 16) (s t : State), s.drf = true → exec (.drwVxVyN x y n) s = .next t →
    (t.reg x').toNat % 64 = (s.reg x).toNat % 64 → (t.reg y').toNat % 32 = (s.reg y).toNat % 32 →
    ∃ u, exec (.drwVxVyN x' y' n) t.frame = .next u ∧ u.disp = s.disp ∧
      (u.reg 15 = 1 ↔ ∃ p, s.Covers x y n p ∧ cellAt s.disp p = false) ∧
      (u.reg 15 = 0 ↔ ¬∃ p, s.Covers x y n p ∧ cellAt s.disp p = false)

/-- R160: only `00E0` and `DXYN` change the display, every other instruction observes it not at all; and those two write neither
memory, `I`, the stack, the timers nor the key latch. -/
def Obligations.OnlyDisplayInstructionsTouchTheDisplay : Prop :=
  ∀ (i : Instr) (s : State),
    (isDisplay i = false → ∀ d, exec i { s with disp := d } = onResult (fun t => { t with disp := d }) (exec i s)) ∧
    (isDisplay i = false → ∀ t, exec i s = .next t → t.disp = s.disp) ∧
    (isDisplay i = true → ∀ t, exec i s = .next t →
      SameBytes s t ∧ t.i = s.i ∧ t.stack = s.stack ∧ t.dt = s.dt ∧ t.st = s.st ∧ t.key = s.key)

/-! ### Keys and timers -/

/-- `EX9E`, `EXA1`: skip on the state of key `V[X]`; an index above 15 faults with that index and commits nothing (R181, R182,
R203, R205; the fault is the spec's own decision D16, D8, logs 9, 15). -/
def Obligations.SkipsOnKey : Prop :=
  ∀ (x : Reg) (s : State),
    decodeWord (0xE#4 ++ nibble x ++ 0x9#4 ++ 0xE#4) = .ok (.skpVx x) ∧
    decodeWord (0xE#4 ++ nibble x ++ 0xA#4 ++ 0x1#4) = .ok (.sknpVx x) ∧
    (∀ h : (s.reg x).toNat < 16,
      (∃ t, exec (.skpVx x) s = .next t ∧ t.pc = (if s.key[(s.reg x).toNat] = true then s.pc + 2 else s.pc) ∧
        t = { s with pc := t.pc } ∧ SameBytes s t) ∧
      (∃ t, exec (.sknpVx x) s = .next t ∧ t.pc = (if s.key[(s.reg x).toNat] = false then s.pc + 2 else s.pc) ∧
        t = { s with pc := t.pc } ∧ SameBytes s t)) ∧
    (16 ≤ (s.reg x).toNat → ∀ f,
      f = Fault.outOfRange { s with pc := s.pc - 2, fault := some ⟨.outOfRange, s.pc - 2, 0#8 ++ s.reg x⟩ } →
      exec (.skpVx x) s = .fault f ∧ exec (.sknpVx x) s = .fault f)

/-- `FX0A`: the least pressed key goes to `V[X]`; with none pressed `pc` is `this_pc` again and nothing else changes (R183; level
sensitivity and the exact stalled state are the spec's own decisions D33, D35, log 23). -/
def Obligations.WaitForKey : Prop :=
  ∀ (x : Reg) (s : State), decodeWord (0xF#4 ++ nibble x ++ 0x0#4 ++ 0xA#4) = .ok (.ldVxK x) ∧
    (∀ k : Key, s.key[k] = true → (∀ j : Key, j < k → s.key[j] = false) →
      ∃ t, exec (.ldVxK x) s = .next t ∧ (t.reg x).toNat = k.val ∧ (∀ r, r ≠ x → t.reg r = s.reg r) ∧
        t = { s with v := t.v } ∧ SameBytes s t) ∧
    ((∀ k : Key, s.key[k] = false) → exec (.ldVxK x) s = .next { s with pc := s.pc - 2 })

/-- R184 to R186: `FX07` reads `DT`, `FX15` and `FX18` write `DT` and `ST`, and nothing else changes. -/
def Obligations.TimerMoves : Prop :=
  ∀ (x : Reg) (s : State),
    (decodeWord (0xF#4 ++ nibble x ++ 0x0#4 ++ 0x7#4) = .ok (.ldVxDt x) ∧
      ∃ t, exec (.ldVxDt x) s = .next t ∧ t.reg x = s.dt ∧ (∀ r, r ≠ x → t.reg r = s.reg r) ∧
        t = { s with v := t.v } ∧ SameBytes s t) ∧
    (decodeWord (0xF#4 ++ nibble x ++ 0x1#4 ++ 0x5#4) = .ok (.ldDtVx x) ∧
      ∃ t, exec (.ldDtVx x) s = .next t ∧ t.dt = s.reg x ∧ t = { s with dt := t.dt } ∧ SameBytes s t) ∧
    (decodeWord (0xF#4 ++ nibble x ++ 0x1#4 ++ 0x8#4) = .ok (.ldStVx x) ∧
      ∃ t, exec (.ldStVx x) s = .next t ∧ t.st = s.reg x ∧ t = { s with st := t.st } ∧ SameBytes s t)

/-! ### Rules of the whole machine -/

/-- R19: a Frame sets `DRF` whether or not it was set, and no other event does; only `DXYN` reads or clears it: to every other
instruction its value makes no difference, and a `DXYN` that goes on leaves it clear. -/
def Obligations.DrawReadyFlagProtocol : Prop :=
  (∀ s, s.init = true → s.fault = none → ∃ t, hostEvent .frame s = .next t ∧ t.drf = true) ∧
  (∀ e s t, e ≠ HostEvent.frame → hostEvent e s = .next t → t.drf = true → s.drf = true) ∧
  (∀ i s b, isDraw i = false →
    exec i { s with drf := b } = onResult (fun t => { t with drf := b }) (exec i s)) ∧
  (∀ i s t, isDraw i = true → exec i s = .next t → t.drf = false)

/-- Each element of the state is written by its own instructions only: `V[r]` by those that name it as destination, or as VF by
those that write the flag; `pc`, beside the advance of the fetch, by the jumps, `2NNN`, `00EE`, a taken skip and the two
busy-waits; memory by `FX33`, `FX55`; the stack by `2NNN`, `00EE`; `I` by `ANNN`, `FX1E`, `FX29`, `FX55`, `FX65`; the display by
`00E0`, `DXYN`; `DT` by `FX15`; `ST` by `FX18`; `DRF` by `DXYN`; `key`, `PEND`, `INIT`, `FAULT`, the parameters by none (R10,
R12, R14, R16 to R23, R26, R46, R71). That no instruction moves `PEND` is the spec's own decision D31 (log 21), that a flag written
last stays in VF D14 (log 14), that `FX0A` looks at the level of the keys D33 (log 23); the two fields of the random byte, written
by `CXNN` alone, are the model's own (log 8). -/
def Obligations.EachElementHasItsWriters : Prop :=
  ∀ (i : Instr) (s t : State), exec i s = .next t →
    (∀ r, t.reg r ≠ s.reg r →
      (∃ nn, i = .ldVxNn r nn ∨ i = .addVxNn r nn ∨ i = .rndVxNn r nn) ∨
      (∃ x y, (r = x ∨ r = 15) ∧ (i = .orVxVy x y ∨ i = .andVxVy x y ∨ i = .xorVxVy x y ∨ i = .addVxVy x y ∨
        i = .subVxVy x y ∨ i = .subnVxVy x y ∨ i = .shrVxVy x y ∨ i = .shlVxVy x y)) ∨
      (∃ y, i = .ldVxVy r y) ∨ i = .ldVxDt r ∨ i = .ldVxK r ∨ (∃ x, r ≤ x ∧ i = .ldVxMemI x) ∨
      (r = 15 ∧ ((∃ x, i = .addIVx x) ∨ ∃ x y n, i = .drwVxVyN x y n ∧ s.drf = true))) ∧
    (t.pc ≠ s.pc →
      (∃ nnn, i = .jp nnn ∨ i = .call nnn ∨ i = .jpV0Nnn nnn) ∨ i = .ret ∨
      (∃ x nn, (i = .seVxNn x nn ∧ s.reg x = nn) ∨ (i = .sneVxNn x nn ∧ s.reg x ≠ nn)) ∨
      (∃ x y, (i = .seVxVy x y ∧ s.reg x = s.reg y) ∨ (i = .sneVxVy x y ∧ s.reg x ≠ s.reg y)) ∨
      (∃ (x : Reg) (k : Key), (s.reg x).toNat = k.val ∧
        ((i = .skpVx x ∧ s.key[k] = true) ∨ (i = .sknpVx x ∧ s.key[k] = false))) ∨
      (∃ x, i = .ldVxK x ∧ ∀ k : Key, s.key[k] = false) ∨ (∃ x y n, i = .drwVxVyN x y n ∧ s.drf = false)) ∧
    (¬SameBytes s t → ∃ x, i = .ldBVx x ∨ i = .ldMemIVx x) ∧
    (t.stack ≠ s.stack → i = .ret ∨ ∃ nnn, i = .call nnn) ∧
    (t.i ≠ s.i → (∃ nnn, i = .ldINnn nnn) ∨ ∃ x, i = .addIVx x ∨ i = .ldFVx x ∨
      (s.cfg.storeLoadIncrement = true ∧ (i = .ldMemIVx x ∨ i = .ldVxMemI x))) ∧
    (t.disp ≠ s.disp → i = .cls ∨ ∃ x y n, i = .drwVxVyN x y n ∧ s.drf = true) ∧
    (t.dt ≠ s.dt → ∃ x, i = .ldDtVx x) ∧ (t.st ≠ s.st → ∃ x, i = .ldStVx x) ∧
    (t.drf ≠ s.drf → ∃ x y n, i = .drwVxVyN x y n) ∧
    (t.rndFeed ≠ s.rndFeed ∨ t.draws ≠ s.draws → ∃ x nn, i = .rndVxNn x nn) ∧
    t.key = s.key ∧ t.pend = s.pend ∧ t.init = s.init ∧ t.fault = s.fault ∧ t.cfg = s.cfg

/-- VF changes only by the instructions that write it as a flag, or as the destination an instruction names (R11, R26). -/
def Obligations.VfWritersAreListed : Prop :=
  ∀ (i : Instr) (s t : State), exec i s = .next t → t.reg 15 ≠ s.reg 15 →
    (∃ x y, i = .orVxVy x y ∨ i = .andVxVy x y ∨ i = .xorVxVy x y ∨ i = .addVxVy x y ∨ i = .subVxVy x y ∨
      i = .subnVxVy x y ∨ i = .shrVxVy x y ∨ i = .shlVxVy x y ∨ i = .addIVx x) ∨
    ((∃ x y n, i = .drwVxVyN x y n) ∧ s.drf = true) ∨
    (∃ nn, i = .ldVxNn 15 nn ∨ i = .addVxNn 15 nn ∨ i = .rndVxNn 15 nn) ∨ (∃ y, i = .ldVxVy 15 y) ∨
    i = .ldVxDt 15 ∨ i = .ldVxK 15 ∨ i = .ldVxMemI 15

/-- Which instruction can raise which fault, and no other can raise anything; no instruction is refused (R200; the codes are the
spec's own decision D9, log 9). -/
def Obligations.OnlyListedInstructionsFault : Prop :=
  ∀ (i : Instr) (s : State), (∀ r, exec i s ≠ .refused r) ∧ ∀ f, exec i s = .fault f →
    (f.cause = .stackUnderflow ∧ f.cause.code = 2 ∧ i = .ret ∧ s.stack = []) ∨
    (f.cause = .outOfRange ∧ f.cause.code = 3 ∧ ∃ x, i = .ldBVx x ∨ i = .ldMemIVx x ∨ i = .ldVxMemI x ∨
      i = .skpVx x ∨ i = .sknpVx x ∨ ∃ y n, i = .drwVxVyN x y n ∧ s.drf = true) ∨
    (f.cause = .stackOverflow ∧ f.cause.code = 4 ∧ (∃ nnn, i = .call nnn) ∧ s.cfg.stackDepth ≠ none)

/-- Faults are precise: whatever a tick faults on, the state it leaves is the state before the tick with
`FAULT = (cause, this_pc, info)`; and the session is in exactly that state, in which every tick is refused (R205, R206; the
spec's own decision D8, log 9). -/
def Obligations.FaultsArePrecise : Prop :=
  ∀ (s : State) (f : Fault), step s = .fault f →
    s.Running ∧ (∃ info, f.after = { s with fault := some ⟨f.cause, s.pc, info⟩ }) ∧
    sessionAfter s (step s) = f.after ∧ step f.after = .refused .alreadyFaulted

/-- R30 of an initialized core, and the canonical form of memory, are kept by every tick, fault or no fault. -/
def Obligations.StepKeepsInvariant : Prop :=
  ∀ (s : State), s.Inv → (∀ t, step s = .next t → t.Inv) ∧ (∀ f, step s = .fault f → f.after.Inv)

/-- They hold all along every session, whatever the host does and in whatever order (R30, R235). -/
def Obligations.SessionsKeepInvariant : Prop :=
  ∀ (s : State) (es : List HostEvent), s.Inv → (session s es).Inv

/-- They hold at `State.reset`, after every Reset that is accepted, and of a core at power-on (R29, R30, R230; the empty ROM of
`State.reset` is the model's choice, log 4). -/
def Obligations.ResetMeetsInvariant : Prop :=
  State.reset.Ranges ∧ (∀ (s : State) rom, romFits rom = true → (s.resetWith rom).Ranges) ∧ ∀ c, (State.powerOn c).Inv

/-! ### The host -/

/-- A Reset with a ROM that fits leaves the values of R29, from any state, and keeps the parameters; it forgets all else (R29,
R231, R233). `DT`, `ST`, `DRF`, `key` and `FAULT` are the spec's own decisions D4 to D6 and D8 (logs 5 to 7, 9); the end of
the font is D25; the two fields kept beside the parameters are the model's own (log 26). -/
def Obligations.ResetLeavesTheListedValues : Prop :=
  ∀ (rom : List Byte) (s : State), rom.length ≤ 3584 →
    ∃ t, hostEvent (.reset rom) s = .next t ∧
      (∀ r, t.reg r = 0) ∧ t.i = 0 ∧ t.pc = 0x200 ∧ t.stack = [] ∧
      (∀ k (h : k < rom.length), t.byteAt (0x200 + k) = rom[k]) ∧
      (∀ k (h : k < 80), t.byteAt (0x50 + k) = s.cfg.font[k]) ∧
      (∀ a, a < 0x50 ∨ (0xA0 ≤ a ∧ a < 0x200) ∨ 0x200 + rom.length ≤ a → t.byteAt a = 0) ∧
      (∀ p, cellAt t.disp p = false) ∧ t.pend = 0x200 + rom.length ∧ t.init = true ∧ t.cfg = s.cfg ∧
      t.dt = 0 ∧ t.st = 0 ∧ t.drf = false ∧ (∀ k : Key, t.key[k] = false) ∧ t.fault = none ∧
      (∀ s', s'.cfg = s.cfg → hostEvent (.reset rom) s' = .next { t with rndFeed := s'.rndFeed, draws := s'.draws })

/-- A Reset with a ROM that does not fit is refused, and leaves a core whose ticks are refused (R220, R232; the spec's own
decisions D7, D26, log 25). That a Frame of an uninitialized core is no move is R230; that the model says so by the refusal
`notInitialized` is its own choice (log 18). -/
def Obligations.OversizedRomLeavesTheCoreUninitialized : Prop :=
  ∀ (rom : List Byte) (s : State), 3584 < rom.length →
    ∃ t, hostEvent (.reset rom) s = .refused (.romTooLarge t) ∧ sessionStep s (.reset rom) = t ∧ t.init = false ∧
      t.cfg = s.cfg ∧ step t = .refused .notInitialized ∧ hostEvent .frame t = .refused .notInitialized

/-- `Frame` sets `DRF` and counts both timers down by one, floor 0, running or halted, and changes nothing else (R212; one event,
and on a halted core too, are the spec's own decisions D21, D34, log 18; of a faulted core no claim is made, D34). -/
def Obligations.FrameEvent : Prop :=
  ∀ (s : State), s.init = true → s.fault = none →
    ∃ t, hostEvent .frame s = .next t ∧ t.drf = true ∧ t.dt.toNat = s.dt.toNat - 1 ∧ t.st.toNat = s.st.toNat - 1 ∧
      t = { s with drf := true, dt := t.dt, st := t.st } ∧ SameBytes s t

/-- A timer value reaches 0 after that many frames and stays there: after `n` frames it is the value less `n`, floor 0
(R213). -/
def Obligations.TimersCountFrames : Prop :=
  ∀ (s : State) (n : Nat), s.init = true → s.fault = none →
    (session s (List.replicate n .frame)).dt.toNat = s.dt.toNat - n ∧
    (session s (List.replicate n .frame)).st.toNat = s.st.toNat - n

/-- `KeyDown(k)` and `KeyUp(k)` set and clear one key and change nothing else (R215; an index above 15 does not exist, D32,
log 22; of a faulted core no claim is made, D34). -/
def Obligations.KeyEvents : Prop :=
  ∀ (s : State) (k : Key), s.init = true → s.fault = none →
    (∃ t, hostEvent (.keyDown k) s = .next t ∧ t.key[k] = true ∧ (∀ j, j ≠ k → t.key[j] = s.key[j]) ∧
      t = { s with key := t.key } ∧ SameBytes s t) ∧
    (∃ t, hostEvent (.keyUp k) s = .next t ∧ t.key[k] = false ∧ (∀ j, j ≠ k → t.key[j] = s.key[j]) ∧
      t = { s with key := t.key } ∧ SameBytes s t)
end

