-- ==== Sys2Proof/Laws/PerInstr.lean ====
section
/-! SUPPORT. One fact per instruction, as syntax: its word selects its own row of the opcode table (spec/30_encoding.md
R65, R66). -/

namespace Sys2Proof

theorem reg_shift_mask : ∀ x : Reg,
    (BitVec.ofNat 16 x <<< 8) &&& 0xF000#16 = 0 ∧ (BitVec.ofNat 16 x <<< 8) &&& 0xF00F#16 = 0 ∧
    (BitVec.ofNat 16 x <<< 8) &&& 0xF0FF#16 = 0 ∧ (BitVec.ofNat 16 x <<< 4) &&& 0xF000#16 = 0 ∧
    (BitVec.ofNat 16 x <<< 4) &&& 0xF00F#16 = 0 ∧ BitVec.ofNat 16 x &&& 0xF000#16 = 0 := by decide

theorem setWidth_mask {w : Nat} (hw : w ≤ 12) (b : BitVec w) : b.setWidth 16 &&& 0xF000#16 = 0 := by
  apply BitVec.eq_of_getLsbD_eq
  intro k hk
  simp only [BitVec.getLsbD_and, BitVec.getLsbD_setWidth, hk, decide_true, Bool.true_and]
  by_cases h : k < 12
  · have : ∀ j, j < 12 → (0xF000#16).getLsbD j = false := by decide
    simp [this k h]
  · simp [BitVec.getLsbD_of_ge b k (by omega)]

/-- The fields of `fNNN` leave the fixed bits alone (R62). -/
theorem packNnn_mask (p : Word) (nnn : Addr12) : packNnn p nnn &&& 0xF000 = p &&& 0xF000 := by
  rw [packNnn, BitVec.and_comm, BitVec.and_or_distrib_left, BitVec.and_comm _ (nnn.setWidth 16),
    show nnn.setWidth 16 &&& (0xF000 : Word) = 0 from setWidth_mask (by omega) nnn, BitVec.and_comm]
  simp

theorem and_or_or (p a b m : Word) (ha : a &&& m = 0) (hb : b &&& m = 0) : (p ||| a ||| b) &&& m = p &&& m := by
  rw [BitVec.and_comm, BitVec.and_or_distrib_left, BitVec.and_or_distrib_left, BitVec.and_comm m a, ha,
    BitVec.and_comm m b, hb, BitVec.and_comm]
  simp

/-- The fields of `fXNN` leave the fixed bits alone (R62). -/
theorem packXNn_mask (p : Word) (x : Reg) (nn : Byte) : packXNn p x nn &&& 0xF000 = p &&& 0xF000 :=
  and_or_or _ _ _ _ (reg_shift_mask x).1 (setWidth_mask (by omega) nn)

/-- The fields of `fXYn` leave the fixed bits alone (R62). -/
theorem packXY_mask (p : Word) (x y : Reg) : packXY p x y &&& 0xF00F = p &&& 0xF00F :=
  and_or_or _ _ _ _ (reg_shift_mask x).2.1 (reg_shift_mask y).2.2.2.2.1

/-- The fields of `DXYN` leave the fixed bits alone (R62). -/
theorem packXYN_mask (p : Word) (x y : Reg) (n : Fin 16) : packXYN p x y n &&& 0xF000 = p &&& 0xF000 := by
  have h : (p ||| BitVec.ofNat 16 x <<< 8) &&& (0xF000 : Word) = p &&& 0xF000 := by
    rw [BitVec.and_comm, BitVec.and_or_distrib_left, BitVec.and_comm _ (BitVec.ofNat 16 x <<< 8),
      show (BitVec.ofNat 16 x <<< 8) &&& (0xF000 : Word) = 0 from (reg_shift_mask x).1, BitVec.and_comm]
    simp
  exact (and_or_or _ _ _ _ (reg_shift_mask y).2.2.2.1 (reg_shift_mask n).2.2.2.2.2).trans h

/-- The field of `fXnn` leaves the fixed bits alone (R62). -/
theorem packX_mask (p : Word) (x : Reg) : packX p x &&& 0xF0FF = p &&& 0xF0FF := by
  rw [packX, BitVec.and_comm, BitVec.and_or_distrib_left, BitVec.and_comm _ (BitVec.ofNat 16 x <<< 8),
    show (BitVec.ofNat 16 x <<< 8) &&& (0xF0FF : Word) = 0 from (reg_shift_mask x).2.2.1, BitVec.and_comm]
  simp

/-- The word of an instruction selects a row of the table with the instruction's own mnemonic (R65). -/
def Laws.EncodeMatches.Statement (i : Instr) : Prop :=
  ∃ r ∈ opcodeTable, r.mnemonic = i.mnemonic ∧ r.selects (encodeWord i) = true

theorem Laws.EncodeMatches.of_row {i : Instr} (k : Nat) (hk : k < 34)
    (hm : (opcodeTable[k]'hk).mnemonic = i.mnemonic)
    (hs : encodeWord i &&& (opcodeTable[k]'hk).mask = (opcodeTable[k]'hk).pattern) :
    Laws.EncodeMatches.Statement i :=
  ⟨_, List.getElem_mem hk, hm, by rw [OpcodeRow.selects, hs]; exact beq_self_eq_true _⟩

theorem Laws.EncodeMatches.cls : Laws.EncodeMatches.Statement .cls :=
  Laws.EncodeMatches.of_row 0 (by decide) rfl rfl

theorem Laws.EncodeMatches.ret : Laws.EncodeMatches.Statement .ret :=
  Laws.EncodeMatches.of_row 1 (by decide) rfl rfl

theorem Laws.EncodeMatches.jp (nnn : Addr12) : Laws.EncodeMatches.Statement (.jp nnn) :=
  Laws.EncodeMatches.of_row 2 (by decide) rfl (packNnn_mask _ nnn)

theorem Laws.EncodeMatches.call (nnn : Addr12) : Laws.EncodeMatches.Statement (.call nnn) :=
  Laws.EncodeMatches.of_row 3 (by decide) rfl (packNnn_mask _ nnn)

theorem Laws.EncodeMatches.seVxNn (x : Reg) (nn : Byte) : Laws.EncodeMatches.Statement (.seVxNn x nn) :=
  Laws.EncodeMatches.of_row 4 (by decide) rfl (packXNn_mask _ x nn)

theorem Laws.EncodeMatches.sneVxNn (x : Reg) (nn : Byte) : Laws.EncodeMatches.Statement (.sneVxNn x nn) :=
  Laws.EncodeMatches.of_row 5 (by decide) rfl (packXNn_mask _ x nn)

theorem Laws.EncodeMatches.seVxVy (x : Reg) (y : Reg) : Laws.EncodeMatches.Statement (.seVxVy x y) :=
  Laws.EncodeMatches.of_row 6 (by decide) rfl (packXY_mask _ x y)

theorem Laws.EncodeMatches.ldVxNn (x : Reg) (nn : Byte) : Laws.EncodeMatches.Statement (.ldVxNn x nn) :=
  Laws.EncodeMatches.of_row 7 (by decide) rfl (packXNn_mask _ x nn)

theorem Laws.EncodeMatches.addVxNn (x : Reg) (nn : Byte) : Laws.EncodeMatches.Statement (.addVxNn x nn) :=
  Laws.EncodeMatches.of_row 8 (by decide) rfl (packXNn_mask _ x nn)

theorem Laws.EncodeMatches.ldVxVy (x : Reg) (y : Reg) : Laws.EncodeMatches.Statement (.ldVxVy x y) :=
  Laws.EncodeMatches.of_row 9 (by decide) rfl (packXY_mask _ x y)

theorem Laws.EncodeMatches.orVxVy (x : Reg) (y : Reg) : Laws.EncodeMatches.Statement (.orVxVy x y) :=
  Laws.EncodeMatches.of_row 10 (by decide) rfl (packXY_mask _ x y)

theorem Laws.EncodeMatches.andVxVy (x : Reg) (y : Reg) : Laws.EncodeMatches.Statement (.andVxVy x y) :=
  Laws.EncodeMatches.of_row 11 (by decide) rfl (packXY_mask _ x y)

theorem Laws.EncodeMatches.xorVxVy (x : Reg) (y : Reg) : Laws.EncodeMatches.Statement (.xorVxVy x y) :=
  Laws.EncodeMatches.of_row 12 (by decide) rfl (packXY_mask _ x y)

theorem Laws.EncodeMatches.addVxVy (x : Reg) (y : Reg) : Laws.EncodeMatches.Statement (.addVxVy x y) :=
  Laws.EncodeMatches.of_row 13 (by decide) rfl (packXY_mask _ x y)

theorem Laws.EncodeMatches.subVxVy (x : Reg) (y : Reg) : Laws.EncodeMatches.Statement (.subVxVy x y) :=
  Laws.EncodeMatches.of_row 14 (by decide) rfl (packXY_mask _ x y)

theorem Laws.EncodeMatches.shrVxVy (x : Reg) (y : Reg) : Laws.EncodeMatches.Statement (.shrVxVy x y) :=
  Laws.EncodeMatches.of_row 15 (by decide) rfl (packXY_mask _ x y)

theorem Laws.EncodeMatches.subnVxVy (x : Reg) (y : Reg) : Laws.EncodeMatches.Statement (.subnVxVy x y) :=
  Laws.EncodeMatches.of_row 16 (by decide) rfl (packXY_mask _ x y)

theorem Laws.EncodeMatches.shlVxVy (x : Reg) (y : Reg) : Laws.EncodeMatches.Statement (.shlVxVy x y) :=
  Laws.EncodeMatches.of_row 17 (by decide) rfl (packXY_mask _ x y)

theorem Laws.EncodeMatches.sneVxVy (x : Reg) (y : Reg) : Laws.EncodeMatches.Statement (.sneVxVy x y) :=
  Laws.EncodeMatches.of_row 18 (by decide) rfl (packXY_mask _ x y)

theorem Laws.EncodeMatches.ldINnn (nnn : Addr12) : Laws.EncodeMatches.Statement (.ldINnn nnn) :=
  Laws.EncodeMatches.of_row 19 (by decide) rfl (packNnn_mask _ nnn)

theorem Laws.EncodeMatches.jpV0Nnn (nnn : Addr12) : Laws.EncodeMatches.Statement (.jpV0Nnn nnn) :=
  Laws.EncodeMatches.of_row 20 (by decide) rfl (packNnn_mask _ nnn)

theorem Laws.EncodeMatches.rndVxNn (x : Reg) (nn : Byte) : Laws.EncodeMatches.Statement (.rndVxNn x nn) :=
  Laws.EncodeMatches.of_row 21 (by decide) rfl (packXNn_mask _ x nn)

theorem Laws.EncodeMatches.drwVxVyN (x : Reg) (y : Reg) (n : Fin 16) : Laws.EncodeMatches.Statement (.drwVxVyN x y n) :=
  Laws.EncodeMatches.of_row 22 (by decide) rfl (packXYN_mask _ x y n)

theorem Laws.EncodeMatches.skpVx (x : Reg) : Laws.EncodeMatches.Statement (.skpVx x) :=
  Laws.EncodeMatches.of_row 23 (by decide) rfl (packX_mask _ x)

theorem Laws.EncodeMatches.sknpVx (x : Reg) : Laws.EncodeMatches.Statement (.sknpVx x) :=
  Laws.EncodeMatches.of_row 24 (by decide) rfl (packX_mask _ x)

theorem Laws.EncodeMatches.ldVxDt (x : Reg) : Laws.EncodeMatches.Statement (.ldVxDt x) :=
  Laws.EncodeMatches.of_row 25 (by decide) rfl (packX_mask _ x)

theorem Laws.EncodeMatches.ldVxK (x : Reg) : Laws.EncodeMatches.Statement (.ldVxK x) :=
  Laws.EncodeMatches.of_row 26 (by decide) rfl (packX_mask _ x)

theorem Laws.EncodeMatches.ldDtVx (x : Reg) : Laws.EncodeMatches.Statement (.ldDtVx x) :=
  Laws.EncodeMatches.of_row 27 (by decide) rfl (packX_mask _ x)

theorem Laws.EncodeMatches.ldStVx (x : Reg) : Laws.EncodeMatches.Statement (.ldStVx x) :=
  Laws.EncodeMatches.of_row 28 (by decide) rfl (packX_mask _ x)

theorem Laws.EncodeMatches.addIVx (x : Reg) : Laws.EncodeMatches.Statement (.addIVx x) :=
  Laws.EncodeMatches.of_row 29 (by decide) rfl (packX_mask _ x)

theorem Laws.EncodeMatches.ldFVx (x : Reg) : Laws.EncodeMatches.Statement (.ldFVx x) :=
  Laws.EncodeMatches.of_row 30 (by decide) rfl (packX_mask _ x)

theorem Laws.EncodeMatches.ldBVx (x : Reg) : Laws.EncodeMatches.Statement (.ldBVx x) :=
  Laws.EncodeMatches.of_row 31 (by decide) rfl (packX_mask _ x)

theorem Laws.EncodeMatches.ldMemIVx (x : Reg) : Laws.EncodeMatches.Statement (.ldMemIVx x) :=
  Laws.EncodeMatches.of_row 32 (by decide) rfl (packX_mask _ x)

theorem Laws.EncodeMatches.ldVxMemI (x : Reg) : Laws.EncodeMatches.Statement (.ldVxMemI x) :=
  Laws.EncodeMatches.of_row 33 (by decide) rfl (packX_mask _ x)

end Sys2Proof
end

