-- ==== Sys2Proof/Laws/Decode.lean ====
section
/-! SUPPORT. Words as their four digits: the fields and the fixed bits of a word written out high digit first
(spec/30_encoding.md R61, R62), and when a row of the table is the one a word selects (R65). -/

namespace Sys2Proof

/-- A word is its four digits. -/
theorem word_digits (w : Word) :
    w = w.extractLsb' 12 4 ++ w.extractLsb' 8 4 ++ w.extractLsb' 4 4 ++ w.extractLsb' 0 4 := by
  apply BitVec.eq_of_getLsbD_eq
  intro k hk
  simp only [BitVec.getLsbD_append, BitVec.getLsbD_extractLsb']
  have h : k < 4 ∨ 4 ≤ k ∧ k < 8 ∨ 8 ≤ k ∧ k < 12 ∨ 12 ≤ k ∧ k < 16 := by omega
  rcases h with h | h | h | h
  · simp [h]
  · simp [show ¬ k < 4 by omega, show k - 4 < 4 by omega, show 4 + (k - 4) = k by omega]
  · simp [show ¬ k < 4 by omega, show ¬ k - 4 < 4 by omega, show k - 4 - 4 < 4 by omega,
      show 8 + (k - 4 - 4) = k by omega]
  · simp [show ¬ k < 4 by omega, show ¬ k - 4 < 4 by omega, show ¬ k - 4 - 4 < 4 by omega,
      show k - 4 - 4 - 4 < 4 by omega, show 12 + (k - 4 - 4 - 4) = k by omega]

theorem and_15 : ∀ d : BitVec 4, d &&& 15#4 = d := by decide

section Digits
variable (f x y n : BitVec 4) (nn : Byte) (nnn : Addr12)

@[simp] theorem fieldX_digits : fieldX (f ++ x ++ y ++ n) = x.toFin := by
  simp only [fieldX]
  congr 1
  rw [BitVec.extractLsb'_append_eq_of_le (by omega), BitVec.extractLsb'_append_eq_of_le (by omega)]
  exact BitVec.extractLsb'_append_eq_right

@[simp] theorem fieldY_digits : fieldY (f ++ x ++ y ++ n) = y.toFin := by
  simp only [fieldY]
  congr 1
  rw [BitVec.extractLsb'_append_eq_of_le (by omega)]
  exact BitVec.extractLsb'_append_eq_right

@[simp] theorem fieldN_digits : fieldN (f ++ x ++ y ++ n) = n.toFin := by
  simp only [fieldN]
  congr 1
  exact BitVec.extractLsb'_append_eq_right

@[simp] theorem fieldX_immediate : fieldX (f ++ x ++ nn) = x.toFin := by
  simp only [fieldX]
  congr 1
  rw [BitVec.extractLsb'_append_eq_of_le (by omega)]
  exact BitVec.extractLsb'_append_eq_right

@[simp] theorem fieldNn_immediate : fieldNn (f ++ x ++ nn) = nn := BitVec.extractLsb'_append_eq_right

@[simp] theorem fieldNnn_address : fieldNnn (f ++ nnn) = nnn := BitVec.extractLsb'_append_eq_right

/-- The fixed bits of format `fXYn`. -/
theorem digits_and_F00F : (f ++ x ++ y ++ n : Word) &&& 0xF00F = f ++ 0#4 ++ 0#4 ++ n := by
  rw [show (0xF00F : Word) = 0xF#4 ++ 0#4 ++ 0#4 ++ 0xF#4 by decide, BitVec.and_append, BitVec.and_append,
    BitVec.and_append]
  simp [and_15]

/-- The fixed bits of format `fXnn`. -/
theorem digits_and_F0FF : (f ++ x ++ y ++ n : Word) &&& 0xF0FF = f ++ 0#4 ++ y ++ n := by
  rw [show (0xF0FF : Word) = 0xF#4 ++ 0#4 ++ 0xF#4 ++ 0xF#4 by decide, BitVec.and_append, BitVec.and_append,
    BitVec.and_append]
  simp [and_15]

/-- The fixed bits of format `DXYN`. -/
theorem digits_and_F000 : (f ++ x ++ y ++ n : Word) &&& 0xF000 = f ++ 0#4 ++ 0#4 ++ 0#4 := by
  rw [show (0xF000 : Word) = 0xF#4 ++ 0#4 ++ 0#4 ++ 0#4 by decide, BitVec.and_append, BitVec.and_append,
    BitVec.and_append]
  simp [and_15]

/-- The fixed bits of format `fXNN`. -/
theorem immediate_and_F000 : (f ++ x ++ nn) &&& 0xF000 = f ++ 0#4 ++ 0#8 := by
  rw [show (0xF000 : Word) = 0xF#4 ++ 0#4 ++ 0#8 by decide, BitVec.and_append, BitVec.and_append]
  simp [and_15]

/-- The fixed bits of format `fNNN`. -/
theorem address_and_F000 : (f ++ nnn) &&& 0xF000 = f ++ 0#12 := by
  rw [show (0xF000 : Word) = 0xF#4 ++ 0#12 by decide, BitVec.and_append]
  simp [and_15]

end Digits

/-- A word that selects two rows shows the fixed bits of both: two rows whose common fixed bits differ select no word
both (R65). -/
theorem OpcodeRow.patterns_agree {r r' : OpcodeRow} {w : Word} (h : r.selects w = true) (h' : r'.selects w = true) :
    r.pattern &&& r'.mask = r'.pattern &&& r.mask := by
  simp only [OpcodeRow.selects, beq_iff_eq] at h h'
  rw [← h, ← h', BitVec.and_assoc, BitVec.and_assoc, BitVec.and_comm r.mask]

/-- The first row found is the only one that can be: where no other row of a list selects the word, the search finds it. -/
theorem find_row_of_unique {rows : List OpcodeRow} {r : OpcodeRow} {w : Word} (hr : r ∈ rows)
    (hs : r.selects w = true) (hu : ∀ r' ∈ rows, r'.selects w = true → r' = r) :
    rows.find? (·.selects w) = some r := by
  cases hf : rows.find? (·.selects w) with
  | none => exact absurd hs (by simpa using List.find?_eq_none.1 hf r hr)
  | some r' => rw [hu r' (List.mem_of_find?_eq_some hf) (List.find?_some (p := fun q : OpcodeRow => q.selects w) hf)]

end Sys2Proof
end

