-- ==== Sys2Proof/Laws/State.lean ====
section
/-! SUPPORT. The small lemmas of each state update: what every field, register and memory byte is after it. One lemma a
field, so that no later proof unfolds a record update. -/

namespace Sys2Proof.Machine

@[simp] theorem State.setReg_i (s : State) (x : Reg) (b : Byte) : (s.setReg x b).i = s.i := rfl
@[simp] theorem State.setReg_pc (s : State) (x : Reg) (b : Byte) : (s.setReg x b).pc = s.pc := rfl
@[simp] theorem State.setReg_stack (s : State) (x : Reg) (b : Byte) : (s.setReg x b).stack = s.stack := rfl
@[simp] theorem State.setReg_mem (s : State) (x : Reg) (b : Byte) : (s.setReg x b).mem = s.mem := rfl
@[simp] theorem State.setReg_disp (s : State) (x : Reg) (b : Byte) : (s.setReg x b).disp = s.disp := rfl
@[simp] theorem State.setReg_key (s : State) (x : Reg) (b : Byte) : (s.setReg x b).key = s.key := rfl
@[simp] theorem State.setReg_dt (s : State) (x : Reg) (b : Byte) : (s.setReg x b).dt = s.dt := rfl
@[simp] theorem State.setReg_st (s : State) (x : Reg) (b : Byte) : (s.setReg x b).st = s.st := rfl
@[simp] theorem State.setReg_drf (s : State) (x : Reg) (b : Byte) : (s.setReg x b).drf = s.drf := rfl
@[simp] theorem State.setReg_pend (s : State) (x : Reg) (b : Byte) : (s.setReg x b).pend = s.pend := rfl
@[simp] theorem State.setReg_init (s : State) (x : Reg) (b : Byte) : (s.setReg x b).init = s.init := rfl
@[simp] theorem State.setReg_fault (s : State) (x : Reg) (b : Byte) : (s.setReg x b).fault = s.fault := rfl
@[simp] theorem State.setReg_cfg (s : State) (x : Reg) (b : Byte) : (s.setReg x b).cfg = s.cfg := rfl
@[simp] theorem State.setReg_rndFeed (s : State) (x : Reg) (b : Byte) : (s.setReg x b).rndFeed = s.rndFeed := rfl
@[simp] theorem State.setReg_draws (s : State) (x : Reg) (b : Byte) : (s.setReg x b).draws = s.draws := rfl
@[simp] theorem State.setReg_byteAt (s : State) (x : Reg) (b : Byte) (j : Nat) : (s.setReg x b).byteAt j = s.byteAt j := rfl

@[simp] theorem State.setFlag_i (s : State) (c : Bool) : (s.setFlag c).i = s.i := rfl
@[simp] theorem State.setFlag_pc (s : State) (c : Bool) : (s.setFlag c).pc = s.pc := rfl
@[simp] theorem State.setFlag_stack (s : State) (c : Bool) : (s.setFlag c).stack = s.stack := rfl
@[simp] theorem State.setFlag_mem (s : State) (c : Bool) : (s.setFlag c).mem = s.mem := rfl
@[simp] theorem State.setFlag_disp (s : State) (c : Bool) : (s.setFlag c).disp = s.disp := rfl
@[simp] theorem State.setFlag_key (s : State) (c : Bool) : (s.setFlag c).key = s.key := rfl
@[simp] theorem State.setFlag_dt (s : State) (c : Bool) : (s.setFlag c).dt = s.dt := rfl
@[simp] theorem State.setFlag_st (s : State) (c : Bool) : (s.setFlag c).st = s.st := rfl
@[simp] theorem State.setFlag_drf (s : State) (c : Bool) : (s.setFlag c).drf = s.drf := rfl
@[simp] theorem State.setFlag_pend (s : State) (c : Bool) : (s.setFlag c).pend = s.pend := rfl
@[simp] theorem State.setFlag_init (s : State) (c : Bool) : (s.setFlag c).init = s.init := rfl
@[simp] theorem State.setFlag_fault (s : State) (c : Bool) : (s.setFlag c).fault = s.fault := rfl
@[simp] theorem State.setFlag_cfg (s : State) (c : Bool) : (s.setFlag c).cfg = s.cfg := rfl
@[simp] theorem State.setFlag_rndFeed (s : State) (c : Bool) : (s.setFlag c).rndFeed = s.rndFeed := rfl
@[simp] theorem State.setFlag_draws (s : State) (c : Bool) : (s.setFlag c).draws = s.draws := rfl
@[simp] theorem State.setFlag_byteAt (s : State) (c : Bool) (j : Nat) : (s.setFlag c).byteAt j = s.byteAt j := rfl

@[simp] theorem State.setRegFlag_i (s : State) (x : Reg) (b : Byte) (c : Bool) : (s.setRegFlag x b c).i = s.i := rfl
@[simp] theorem State.setRegFlag_pc (s : State) (x : Reg) (b : Byte) (c : Bool) : (s.setRegFlag x b c).pc = s.pc := rfl
@[simp] theorem State.setRegFlag_stack (s : State) (x : Reg) (b : Byte) (c : Bool) : (s.setRegFlag x b c).stack = s.stack := rfl
@[simp] theorem State.setRegFlag_mem (s : State) (x : Reg) (b : Byte) (c : Bool) : (s.setRegFlag x b c).mem = s.mem := rfl
@[simp] theorem State.setRegFlag_disp (s : State) (x : Reg) (b : Byte) (c : Bool) : (s.setRegFlag x b c).disp = s.disp := rfl
@[simp] theorem State.setRegFlag_key (s : State) (x : Reg) (b : Byte) (c : Bool) : (s.setRegFlag x b c).key = s.key := rfl
@[simp] theorem State.setRegFlag_dt (s : State) (x : Reg) (b : Byte) (c : Bool) : (s.setRegFlag x b c).dt = s.dt := rfl
@[simp] theorem State.setRegFlag_st (s : State) (x : Reg) (b : Byte) (c : Bool) : (s.setRegFlag x b c).st = s.st := rfl
@[simp] theorem State.setRegFlag_drf (s : State) (x : Reg) (b : Byte) (c : Bool) : (s.setRegFlag x b c).drf = s.drf := rfl
@[simp] theorem State.setRegFlag_pend (s : State) (x : Reg) (b : Byte) (c : Bool) : (s.setRegFlag x b c).pend = s.pend := rfl
@[simp] theorem State.setRegFlag_init (s : State) (x : Reg) (b : Byte) (c : Bool) : (s.setRegFlag x b c).init = s.init := rfl
@[simp] theorem State.setRegFlag_fault (s : State) (x : Reg) (b : Byte) (c : Bool) : (s.setRegFlag x b c).fault = s.fault := rfl
@[simp] theorem State.setRegFlag_cfg (s : State) (x : Reg) (b : Byte) (c : Bool) : (s.setRegFlag x b c).cfg = s.cfg := rfl
@[simp] theorem State.setRegFlag_rndFeed (s : State) (x : Reg) (b : Byte) (c : Bool) : (s.setRegFlag x b c).rndFeed = s.rndFeed := rfl
@[simp] theorem State.setRegFlag_draws (s : State) (x : Reg) (b : Byte) (c : Bool) : (s.setRegFlag x b c).draws = s.draws := rfl
@[simp] theorem State.setRegFlag_byteAt (s : State) (x : Reg) (b : Byte) (c : Bool) (j : Nat) : (s.setRegFlag x b c).byteAt j = s.byteAt j := rfl

@[simp] theorem State.setI_v (s : State) (w : Word) : (s.setI w).v = s.v := rfl
@[simp] theorem State.setI_pc (s : State) (w : Word) : (s.setI w).pc = s.pc := rfl
@[simp] theorem State.setI_stack (s : State) (w : Word) : (s.setI w).stack = s.stack := rfl
@[simp] theorem State.setI_mem (s : State) (w : Word) : (s.setI w).mem = s.mem := rfl
@[simp] theorem State.setI_disp (s : State) (w : Word) : (s.setI w).disp = s.disp := rfl
@[simp] theorem State.setI_key (s : State) (w : Word) : (s.setI w).key = s.key := rfl
@[simp] theorem State.setI_dt (s : State) (w : Word) : (s.setI w).dt = s.dt := rfl
@[simp] theorem State.setI_st (s : State) (w : Word) : (s.setI w).st = s.st := rfl
@[simp] theorem State.setI_drf (s : State) (w : Word) : (s.setI w).drf = s.drf := rfl
@[simp] theorem State.setI_pend (s : State) (w : Word) : (s.setI w).pend = s.pend := rfl
@[simp] theorem State.setI_init (s : State) (w : Word) : (s.setI w).init = s.init := rfl
@[simp] theorem State.setI_fault (s : State) (w : Word) : (s.setI w).fault = s.fault := rfl
@[simp] theorem State.setI_cfg (s : State) (w : Word) : (s.setI w).cfg = s.cfg := rfl
@[simp] theorem State.setI_rndFeed (s : State) (w : Word) : (s.setI w).rndFeed = s.rndFeed := rfl
@[simp] theorem State.setI_draws (s : State) (w : Word) : (s.setI w).draws = s.draws := rfl
@[simp] theorem State.setI_reg (s : State) (w : Word) (r : Reg) : (s.setI w).reg r = s.reg r := rfl
@[simp] theorem State.setI_byteAt (s : State) (w : Word) (j : Nat) : (s.setI w).byteAt j = s.byteAt j := rfl

@[simp] theorem State.setPc_v (s : State) (w : Word) : (s.setPc w).v = s.v := rfl
@[simp] theorem State.setPc_i (s : State) (w : Word) : (s.setPc w).i = s.i := rfl
@[simp] theorem State.setPc_stack (s : State) (w : Word) : (s.setPc w).stack = s.stack := rfl
@[simp] theorem State.setPc_mem (s : State) (w : Word) : (s.setPc w).mem = s.mem := rfl
@[simp] theorem State.setPc_disp (s : State) (w : Word) : (s.setPc w).disp = s.disp := rfl
@[simp] theorem State.setPc_key (s : State) (w : Word) : (s.setPc w).key = s.key := rfl
@[simp] theorem State.setPc_dt (s : State) (w : Word) : (s.setPc w).dt = s.dt := rfl
@[simp] theorem State.setPc_st (s : State) (w : Word) : (s.setPc w).st = s.st := rfl
@[simp] theorem State.setPc_drf (s : State) (w : Word) : (s.setPc w).drf = s.drf := rfl
@[simp] theorem State.setPc_pend (s : State) (w : Word) : (s.setPc w).pend = s.pend := rfl
@[simp] theorem State.setPc_init (s : State) (w : Word) : (s.setPc w).init = s.init := rfl
@[simp] theorem State.setPc_fault (s : State) (w : Word) : (s.setPc w).fault = s.fault := rfl
@[simp] theorem State.setPc_cfg (s : State) (w : Word) : (s.setPc w).cfg = s.cfg := rfl
@[simp] theorem State.setPc_rndFeed (s : State) (w : Word) : (s.setPc w).rndFeed = s.rndFeed := rfl
@[simp] theorem State.setPc_draws (s : State) (w : Word) : (s.setPc w).draws = s.draws := rfl
@[simp] theorem State.setPc_reg (s : State) (w : Word) (r : Reg) : (s.setPc w).reg r = s.reg r := rfl
@[simp] theorem State.setPc_byteAt (s : State) (w : Word) (j : Nat) : (s.setPc w).byteAt j = s.byteAt j := rfl

@[simp] theorem State.advance_v (s : State) : (s.advance).v = s.v := rfl
@[simp] theorem State.advance_i (s : State) : (s.advance).i = s.i := rfl
@[simp] theorem State.advance_stack (s : State) : (s.advance).stack = s.stack := rfl
@[simp] theorem State.advance_mem (s : State) : (s.advance).mem = s.mem := rfl
@[simp] theorem State.advance_disp (s : State) : (s.advance).disp = s.disp := rfl
@[simp] theorem State.advance_key (s : State) : (s.advance).key = s.key := rfl
@[simp] theorem State.advance_dt (s : State) : (s.advance).dt = s.dt := rfl
@[simp] theorem State.advance_st (s : State) : (s.advance).st = s.st := rfl
@[simp] theorem State.advance_drf (s : State) : (s.advance).drf = s.drf := rfl
@[simp] theorem State.advance_pend (s : State) : (s.advance).pend = s.pend := rfl
@[simp] theorem State.advance_init (s : State) : (s.advance).init = s.init := rfl
@[simp] theorem State.advance_fault (s : State) : (s.advance).fault = s.fault := rfl
@[simp] theorem State.advance_cfg (s : State) : (s.advance).cfg = s.cfg := rfl
@[simp] theorem State.advance_rndFeed (s : State) : (s.advance).rndFeed = s.rndFeed := rfl
@[simp] theorem State.advance_draws (s : State) : (s.advance).draws = s.draws := rfl
@[simp] theorem State.advance_reg (s : State) (r : Reg) : (s.advance).reg r = s.reg r := rfl
@[simp] theorem State.advance_byteAt (s : State) (j : Nat) : (s.advance).byteAt j = s.byteAt j := rfl

@[simp] theorem State.rewind_v (s : State) : (s.rewind).v = s.v := rfl
@[simp] theorem State.rewind_i (s : State) : (s.rewind).i = s.i := rfl
@[simp] theorem State.rewind_stack (s : State) : (s.rewind).stack = s.stack := rfl
@[simp] theorem State.rewind_mem (s : State) : (s.rewind).mem = s.mem := rfl
@[simp] theorem State.rewind_disp (s : State) : (s.rewind).disp = s.disp := rfl
@[simp] theorem State.rewind_key (s : State) : (s.rewind).key = s.key := rfl
@[simp] theorem State.rewind_dt (s : State) : (s.rewind).dt = s.dt := rfl
@[simp] theorem State.rewind_st (s : State) : (s.rewind).st = s.st := rfl
@[simp] theorem State.rewind_drf (s : State) : (s.rewind).drf = s.drf := rfl
@[simp] theorem State.rewind_pend (s : State) : (s.rewind).pend = s.pend := rfl
@[simp] theorem State.rewind_init (s : State) : (s.rewind).init = s.init := rfl
@[simp] theorem State.rewind_fault (s : State) : (s.rewind).fault = s.fault := rfl
@[simp] theorem State.rewind_cfg (s : State) : (s.rewind).cfg = s.cfg := rfl
@[simp] theorem State.rewind_rndFeed (s : State) : (s.rewind).rndFeed = s.rndFeed := rfl
@[simp] theorem State.rewind_draws (s : State) : (s.rewind).draws = s.draws := rfl
@[simp] theorem State.rewind_reg (s : State) (r : Reg) : (s.rewind).reg r = s.reg r := rfl
@[simp] theorem State.rewind_byteAt (s : State) (j : Nat) : (s.rewind).byteAt j = s.byteAt j := rfl

@[simp] theorem State.skipIf_v (s : State) (c : Bool) : (s.skipIf c).v = s.v := by
  cases c <;> rfl
@[simp] theorem State.skipIf_i (s : State) (c : Bool) : (s.skipIf c).i = s.i := by
  cases c <;> rfl
@[simp] theorem State.skipIf_stack (s : State) (c : Bool) : (s.skipIf c).stack = s.stack := by
  cases c <;> rfl
@[simp] theorem State.skipIf_mem (s : State) (c : Bool) : (s.skipIf c).mem = s.mem := by
  cases c <;> rfl
@[simp] theorem State.skipIf_disp (s : State) (c : Bool) : (s.skipIf c).disp = s.disp := by
  cases c <;> rfl
@[simp] theorem State.skipIf_key (s : State) (c : Bool) : (s.skipIf c).key = s.key := by
  cases c <;> rfl
@[simp] theorem State.skipIf_dt (s : State) (c : Bool) : (s.skipIf c).dt = s.dt := by
  cases c <;> rfl
@[simp] theorem State.skipIf_st (s : State) (c : Bool) : (s.skipIf c).st = s.st := by
  cases c <;> rfl
@[simp] theorem State.skipIf_drf (s : State) (c : Bool) : (s.skipIf c).drf = s.drf := by
  cases c <;> rfl
@[simp] theorem State.skipIf_pend (s : State) (c : Bool) : (s.skipIf c).pend = s.pend := by
  cases c <;> rfl
@[simp] theorem State.skipIf_init (s : State) (c : Bool) : (s.skipIf c).init = s.init := by
  cases c <;> rfl
@[simp] theorem State.skipIf_fault (s : State) (c : Bool) : (s.skipIf c).fault = s.fault := by
  cases c <;> rfl
@[simp] theorem State.skipIf_cfg (s : State) (c : Bool) : (s.skipIf c).cfg = s.cfg := by
  cases c <;> rfl
@[simp] theorem State.skipIf_rndFeed (s : State) (c : Bool) : (s.skipIf c).rndFeed = s.rndFeed := by
  cases c <;> rfl
@[simp] theorem State.skipIf_draws (s : State) (c : Bool) : (s.skipIf c).draws = s.draws := by
  cases c <;> rfl
@[simp] theorem State.skipIf_reg (s : State) (c : Bool) (r : Reg) : (s.skipIf c).reg r = s.reg r := by simp [State.reg]
@[simp] theorem State.skipIf_byteAt (s : State) (c : Bool) (j : Nat) : (s.skipIf c).byteAt j = s.byteAt j := by simp [State.byteAt]

@[simp] theorem State.push_v (s : State) (w : Word) : (s.push w).v = s.v := rfl
@[simp] theorem State.push_i (s : State) (w : Word) : (s.push w).i = s.i := rfl
@[simp] theorem State.push_pc (s : State) (w : Word) : (s.push w).pc = s.pc := rfl
@[simp] theorem State.push_mem (s : State) (w : Word) : (s.push w).mem = s.mem := rfl
@[simp] theorem State.push_disp (s : State) (w : Word) : (s.push w).disp = s.disp := rfl
@[simp] theorem State.push_key (s : State) (w : Word) : (s.push w).key = s.key := rfl
@[simp] theorem State.push_dt (s : State) (w : Word) : (s.push w).dt = s.dt := rfl
@[simp] theorem State.push_st (s : State) (w : Word) : (s.push w).st = s.st := rfl
@[simp] theorem State.push_drf (s : State) (w : Word) : (s.push w).drf = s.drf := rfl
@[simp] theorem State.push_pend (s : State) (w : Word) : (s.push w).pend = s.pend := rfl
@[simp] theorem State.push_init (s : State) (w : Word) : (s.push w).init = s.init := rfl
@[simp] theorem State.push_fault (s : State) (w : Word) : (s.push w).fault = s.fault := rfl
@[simp] theorem State.push_cfg (s : State) (w : Word) : (s.push w).cfg = s.cfg := rfl
@[simp] theorem State.push_rndFeed (s : State) (w : Word) : (s.push w).rndFeed = s.rndFeed := rfl
@[simp] theorem State.push_draws (s : State) (w : Word) : (s.push w).draws = s.draws := rfl
@[simp] theorem State.push_reg (s : State) (w : Word) (r : Reg) : (s.push w).reg r = s.reg r := rfl
@[simp] theorem State.push_byteAt (s : State) (w : Word) (j : Nat) : (s.push w).byteAt j = s.byteAt j := rfl

@[simp] theorem State.setByte_v (s : State) (a : Nat) (b : Byte) : (s.setByte a b).v = s.v := rfl
@[simp] theorem State.setByte_i (s : State) (a : Nat) (b : Byte) : (s.setByte a b).i = s.i := rfl
@[simp] theorem State.setByte_pc (s : State) (a : Nat) (b : Byte) : (s.setByte a b).pc = s.pc := rfl
@[simp] theorem State.setByte_stack (s : State) (a : Nat) (b : Byte) : (s.setByte a b).stack = s.stack := rfl
@[simp] theorem State.setByte_disp (s : State) (a : Nat) (b : Byte) : (s.setByte a b).disp = s.disp := rfl
@[simp] theorem State.setByte_key (s : State) (a : Nat) (b : Byte) : (s.setByte a b).key = s.key := rfl
@[simp] theorem State.setByte_dt (s : State) (a : Nat) (b : Byte) : (s.setByte a b).dt = s.dt := rfl
@[simp] theorem State.setByte_st (s : State) (a : Nat) (b : Byte) : (s.setByte a b).st = s.st := rfl
@[simp] theorem State.setByte_drf (s : State) (a : Nat) (b : Byte) : (s.setByte a b).drf = s.drf := rfl
@[simp] theorem State.setByte_pend (s : State) (a : Nat) (b : Byte) : (s.setByte a b).pend = s.pend := rfl
@[simp] theorem State.setByte_init (s : State) (a : Nat) (b : Byte) : (s.setByte a b).init = s.init := rfl
@[simp] theorem State.setByte_fault (s : State) (a : Nat) (b : Byte) : (s.setByte a b).fault = s.fault := rfl
@[simp] theorem State.setByte_cfg (s : State) (a : Nat) (b : Byte) : (s.setByte a b).cfg = s.cfg := rfl
@[simp] theorem State.setByte_rndFeed (s : State) (a : Nat) (b : Byte) : (s.setByte a b).rndFeed = s.rndFeed := rfl
@[simp] theorem State.setByte_draws (s : State) (a : Nat) (b : Byte) : (s.setByte a b).draws = s.draws := rfl
@[simp] theorem State.setByte_reg (s : State) (a : Nat) (b : Byte) (r : Reg) : (s.setByte a b).reg r = s.reg r := rfl

@[simp] theorem State.afterDraw_v (s : State) : (s.afterDraw).v = s.v := by
  simp only [State.afterDraw]; split <;> rfl
@[simp] theorem State.afterDraw_i (s : State) : (s.afterDraw).i = s.i := by
  simp only [State.afterDraw]; split <;> rfl
@[simp] theorem State.afterDraw_pc (s : State) : (s.afterDraw).pc = s.pc := by
  simp only [State.afterDraw]; split <;> rfl
@[simp] theorem State.afterDraw_stack (s : State) : (s.afterDraw).stack = s.stack := by
  simp only [State.afterDraw]; split <;> rfl
@[simp] theorem State.afterDraw_mem (s : State) : (s.afterDraw).mem = s.mem := by
  simp only [State.afterDraw]; split <;> rfl
@[simp] theorem State.afterDraw_disp (s : State) : (s.afterDraw).disp = s.disp := by
  simp only [State.afterDraw]; split <;> rfl
@[simp] theorem State.afterDraw_key (s : State) : (s.afterDraw).key = s.key := by
  simp only [State.afterDraw]; split <;> rfl
@[simp] theorem State.afterDraw_dt (s : State) : (s.afterDraw).dt = s.dt := by
  simp only [State.afterDraw]; split <;> rfl
@[simp] theorem State.afterDraw_st (s : State) : (s.afterDraw).st = s.st := by
  simp only [State.afterDraw]; split <;> rfl
@[simp] theorem State.afterDraw_drf (s : State) : (s.afterDraw).drf = s.drf := by
  simp only [State.afterDraw]; split <;> rfl
@[simp] theorem State.afterDraw_pend (s : State) : (s.afterDraw).pend = s.pend := by
  simp only [State.afterDraw]; split <;> rfl
@[simp] theorem State.afterDraw_init (s : State) : (s.afterDraw).init = s.init := by
  simp only [State.afterDraw]; split <;> rfl
@[simp] theorem State.afterDraw_fault (s : State) : (s.afterDraw).fault = s.fault := by
  simp only [State.afterDraw]; split <;> rfl
@[simp] theorem State.afterDraw_cfg (s : State) : (s.afterDraw).cfg = s.cfg := by
  simp only [State.afterDraw]; split <;> rfl
@[simp] theorem State.afterDraw_reg (s : State) (r : Reg) : (s.afterDraw).reg r = s.reg r := by simp [State.reg]
@[simp] theorem State.afterDraw_byteAt (s : State) (j : Nat) : (s.afterDraw).byteAt j = s.byteAt j := by simp [State.byteAt]

@[simp] theorem State.drawSprite_i (s : State) (x y : Reg) (n : Nat) : (s.drawSprite x y n).i = s.i := rfl
@[simp] theorem State.drawSprite_pc (s : State) (x y : Reg) (n : Nat) : (s.drawSprite x y n).pc = s.pc := rfl
@[simp] theorem State.drawSprite_stack (s : State) (x y : Reg) (n : Nat) : (s.drawSprite x y n).stack = s.stack := rfl
@[simp] theorem State.drawSprite_mem (s : State) (x y : Reg) (n : Nat) : (s.drawSprite x y n).mem = s.mem := rfl
@[simp] theorem State.drawSprite_key (s : State) (x y : Reg) (n : Nat) : (s.drawSprite x y n).key = s.key := rfl
@[simp] theorem State.drawSprite_dt (s : State) (x y : Reg) (n : Nat) : (s.drawSprite x y n).dt = s.dt := rfl
@[simp] theorem State.drawSprite_st (s : State) (x y : Reg) (n : Nat) : (s.drawSprite x y n).st = s.st := rfl
@[simp] theorem State.drawSprite_pend (s : State) (x y : Reg) (n : Nat) : (s.drawSprite x y n).pend = s.pend := rfl
@[simp] theorem State.drawSprite_init (s : State) (x y : Reg) (n : Nat) : (s.drawSprite x y n).init = s.init := rfl
@[simp] theorem State.drawSprite_fault (s : State) (x y : Reg) (n : Nat) : (s.drawSprite x y n).fault = s.fault := rfl
@[simp] theorem State.drawSprite_cfg (s : State) (x y : Reg) (n : Nat) : (s.drawSprite x y n).cfg = s.cfg := rfl
@[simp] theorem State.drawSprite_rndFeed (s : State) (x y : Reg) (n : Nat) : (s.drawSprite x y n).rndFeed = s.rndFeed := rfl
@[simp] theorem State.drawSprite_draws (s : State) (x y : Reg) (n : Nat) : (s.drawSprite x y n).draws = s.draws := rfl
@[simp] theorem State.drawSprite_byteAt (s : State) (x y : Reg) (n : Nat) (j : Nat) : (s.drawSprite x y n).byteAt j = s.byteAt j := rfl

/-! ### The fields the updates do write -/

@[simp] theorem State.setI_i (s : State) (w : Word) : (s.setI w).i = w := rfl
@[simp] theorem State.setPc_pc (s : State) (w : Word) : (s.setPc w).pc = w := rfl
@[simp] theorem State.advance_pc (s : State) : s.advance.pc = s.pc + 2 := rfl
@[simp] theorem State.rewind_pc (s : State) : s.rewind.pc = s.pc - 2 := rfl
@[simp] theorem State.skipIf_pc (s : State) (c : Bool) : (s.skipIf c).pc = if c then s.pc + 2 else s.pc := by
  cases c <;> rfl
@[simp] theorem State.push_stack (s : State) (w : Word) : (s.push w).stack = w :: s.stack := rfl
@[simp] theorem State.drawSprite_drf (s : State) (x y : Reg) (n : Nat) : (s.drawSprite x y n).drf = false := rfl

/-- During the execute phase `this_pc` is the address before the advance, whatever the address (R7). -/
@[simp] theorem State.advance_thisPc (s : State) : s.advance.thisPc = s.pc := by
  simp [State.thisPc]

/-- The advance and the rewind cancel: a stalled tick leaves the state as it was (R163, R183). -/
@[simp] theorem State.advance_rewind (s : State) : s.advance.rewind = s := by
  simp [State.rewind, State.advance, State.setPc, State.thisPc]

@[simp] theorem State.reg_setReg (s : State) (x r : Reg) (b : Byte) :
    (s.setReg x b).reg r = if r = x then b else s.reg r := by
  simp only [State.reg, State.setReg, Fin.getElem_fin, Vector.getElem_set, Fin.val_inj, eq_comm]

@[simp] theorem State.reg_setFlag (s : State) (r : Reg) (c : Bool) :
    (s.setFlag c).reg r = if r = Reg.f then flagByte c else s.reg r := by
  simp [State.setFlag]

/-- The flag is what `V[15]` holds afterwards, whichever register the result goes to (R121). -/
@[simp] theorem State.reg_setRegFlag (s : State) (x r : Reg) (b : Byte) (c : Bool) :
    (s.setRegFlag x b c).reg r = if r = Reg.f then flagByte c else if r = x then b else s.reg r := by
  simp [State.setRegFlag]

/-- A register that a register write changed is the one written (R10). -/
theorem State.eq_of_reg_setReg_ne {s : State} {x r : Reg} {b : Byte} (h : (s.setReg x b).reg r ≠ s.reg r) : r = x := by
  by_contra hc
  exact h (by simp [hc])

/-- A register that a flag-writing result changed is the destination or VF (R26). -/
theorem State.eq_of_reg_setRegFlag_ne {s : State} {x r : Reg} {b : Byte} {c : Bool}
    (h : (s.setRegFlag x b c).reg r ≠ s.reg r) : r = x ∨ r = 15 := by
  by_contra hc
  obtain ⟨hx, hf⟩ := not_or.1 hc
  exact h (by simp [hx, show r ≠ Reg.f from hf])

/-- A draw writes no register but VF (R162). -/
theorem State.reg_drawSprite {r : Reg} (h : r ≠ 15) (s : State) (x y : Reg) (n : Nat) :
    (s.drawSprite x y n).reg r = s.reg r := by
  simp only [State.drawSprite, State.reg_setFlag, show r ≠ Reg.f from h, if_false]
  rfl

@[simp] theorem flagByte_toNat (c : Bool) : (flagByte c).toNat = c.toNat := by cases c <;> rfl

/-- A display cell after a toggle (R162). -/
@[simp] theorem cellAt_toggleCell (d : Display) (p q : Pixel) :
    cellAt (toggleCell d p) q = (cellAt d q ^^ decide (q = p)) := by
  obtain ⟨x, y⟩ := p
  obtain ⟨x', y'⟩ := q
  simp only [cellAt, toggleCell, Fin.getElem_fin, Vector.getElem_set, Prod.mk.injEq]
  by_cases h : y = y'
  · subst h
    simp only [if_true, and_true, BitVec.getLsbD_xor, BitVec.getLsbD_shiftLeft, BitVec.getLsbD_one]
    have hx := x.isLt
    have hx' := x'.isLt
    congr 1
    simp only [Fin.ext_iff]
    rw [Bool.eq_iff_iff]; simp; omega
  · have h1 : ¬ (y.val = y'.val) := fun e => h (Fin.ext e)
    have h2 : ¬ (y' = y) := fun e => h e.symm
    simp [h1, h2]

end Sys2Proof.Machine
end

