-- ==== Sys2Proof/Laws/Memory.lean ====
section
/-! SUPPORT. Memory: a read gives the byte last written, a write leaves every other byte alone, and every write keeps the
canonical form (spec/20_memory.md R41, R47). -/

namespace Sys2Proof.Machine

theorem Memory.lookup_cons_eq (k : Nat) (u : Byte) (m : Memory) (j : Nat) :
    List.lookup j ((k, u) :: m) = if j = k then some u else m.lookup j := by
  rw [List.lookup_cons]
  by_cases h : j = k
  · simp [h]
  · have : (j == k) = false := by simpa using h
    simp [h, this]

theorem Memory.lookup_insert (a : Nat) (b : Byte) (m : Memory) (j : Nat) :
    (Memory.insert a b m).lookup j = if j = a then some b else m.lookup j := by
  induction m with
  | nil => simp [Memory.insert, Memory.lookup_cons_eq]
  | cons c m ih =>
    obtain ⟨k, u⟩ := c
    simp only [Memory.insert]
    split
    · simp only [Memory.lookup_cons_eq]
    · split <;> simp only [Memory.lookup_cons_eq, ih] <;> split_ifs <;> first | rfl | omega

theorem Memory.lookup_erase (a : Nat) (m : Memory) (j : Nat) :
    (m.filter (fun c => c.1 != a)).lookup j = if j = a then none else m.lookup j := by
  induction m with
  | nil => simp
  | cons c m ih =>
    obtain ⟨k, u⟩ := c
    by_cases hk : k = a
    · have : ((k, u).1 != a) = false := by simpa using hk
      rw [List.filter_cons_of_neg (by simp [this]), ih, Memory.lookup_cons_eq]
      split_ifs <;> first | rfl | omega
    · rw [List.filter_cons_of_pos (by simpa using hk), Memory.lookup_cons_eq, Memory.lookup_cons_eq, ih]
      split_ifs <;> first | rfl | omega

/-- Everything a byte write does, as the reads see it (R47). -/
theorem Memory.read_write (bg : Nat → Byte) (m : Memory) (a : Nat) (b : Byte) (j : Nat) :
    Memory.read bg (Memory.write bg m a b) j = if j = a then b else Memory.read bg m j := by
  unfold Memory.read Memory.write
  by_cases h : b = bg a
  · rw [if_pos h, Memory.lookup_erase]
    by_cases hj : j = a
    · simp [hj, h]
    · simp [hj]
  · rw [if_neg h, Memory.lookup_insert]
    by_cases hj : j = a <;> simp [hj]

theorem Memory.mem_insert {a : Nat} {b : Byte} {m : Memory} {c : Host.Cell}
    (h : c ∈ Memory.insert a b m) : c = (a, b) ∨ c ∈ m := by
  induction m with
  | nil => simpa [Memory.insert] using h
  | cons d m ih =>
    simp only [Memory.insert] at h
    split at h
    · simpa using h
    · split at h
      · rcases List.mem_cons.1 h with h | h
        · exact .inl h
        · exact .inr (List.mem_cons_of_mem _ h)
      · rcases List.mem_cons.1 h with h | h
        · exact .inr (h ▸ List.mem_cons_self ..)
        · rcases ih h with h | h
          · exact .inl h
          · exact .inr (List.mem_cons_of_mem _ h)

theorem Memory.insert_sorted {a : Nat} {b : Byte} {m : Memory}
    (h : m.Pairwise (fun c d => c.1 < d.1)) :
    (Memory.insert a b m).Pairwise (fun c d => c.1 < d.1) := by
  induction m with
  | nil => simp [Memory.insert]
  | cons d m ih =>
    obtain ⟨hd, hm⟩ := List.pairwise_cons.1 h
    simp only [Memory.insert]
    split
    · rename_i hlt
      refine List.pairwise_cons.2 ⟨fun c hc => ?_, h⟩
      rcases List.mem_cons.1 hc with rfl | hc
      · exact hlt
      · exact lt_trans hlt (hd c hc)
    · split
      · rename_i heq
        exact List.pairwise_cons.2 ⟨fun c hc => heq ▸ hd c hc, hm⟩
      · rename_i hlt hne
        refine List.pairwise_cons.2 ⟨fun c hc => ?_, ih hm⟩
        rcases Memory.mem_insert hc with rfl | hc
        · show d.1 < a; omega
        · exact hd c hc

/-- A write below 4096 keeps the canonical form. -/
theorem Memory.write_wf {bg : Nat → Byte} {m : Memory} {a : Nat} {b : Byte}
    (h : m.wf bg) (ha : a < memSize) : (Memory.write bg m a b).wf bg := by
  unfold Memory.write
  split
  · exact ⟨h.1.filter _, fun c hc => h.2 c (List.mem_filter.1 hc).1⟩
  · rename_i hb
    refine ⟨Memory.insert_sorted h.1, fun c hc => ?_⟩
    rcases Memory.mem_insert hc with rfl | hc
    · exact ⟨ha, hb⟩
    · exact h.2 c hc

/-- Writing the byte an unlisted address reads as removes the entry. -/
theorem Memory.write_bg_lookup (bg : Nat → Byte) (m : Memory) (a : Nat) :
    (Memory.write bg m a (bg a)).lookup a = none := by
  simp [Memory.write, Memory.lookup_erase]

@[simp] theorem State.byteAt_setByte (s : State) (a j : Nat) (b : Byte) :
    (s.setByte a b).byteAt j = if j = a then b else s.byteAt j :=
  Memory.read_write _ _ _ _ _

/-! ### Blocks of bytes -/

/-- A block write changes nothing but memory. -/
theorem State.setBytes_eq (s : State) (a : Nat) (bs : List Byte) :
    s.setBytes a bs = { s with mem := (s.setBytes a bs).mem } := by
  induction bs generalizing s a with
  | nil => rfl
  | cons b bs ih =>
    rw [State.setBytes, ih]
    rfl

@[simp] theorem State.setBytes_v (s : State) (a : Nat) (bs : List Byte) : (s.setBytes a bs).v = s.v := by
  rw [State.setBytes_eq]
@[simp] theorem State.setBytes_i (s : State) (a : Nat) (bs : List Byte) : (s.setBytes a bs).i = s.i := by
  rw [State.setBytes_eq]
@[simp] theorem State.setBytes_pc (s : State) (a : Nat) (bs : List Byte) : (s.setBytes a bs).pc = s.pc := by
  rw [State.setBytes_eq]
@[simp] theorem State.setBytes_stack (s : State) (a : Nat) (bs : List Byte) : (s.setBytes a bs).stack = s.stack := by
  rw [State.setBytes_eq]
@[simp] theorem State.setBytes_disp (s : State) (a : Nat) (bs : List Byte) : (s.setBytes a bs).disp = s.disp := by
  rw [State.setBytes_eq]
@[simp] theorem State.setBytes_key (s : State) (a : Nat) (bs : List Byte) : (s.setBytes a bs).key = s.key := by
  rw [State.setBytes_eq]
@[simp] theorem State.setBytes_dt (s : State) (a : Nat) (bs : List Byte) : (s.setBytes a bs).dt = s.dt := by
  rw [State.setBytes_eq]
@[simp] theorem State.setBytes_st (s : State) (a : Nat) (bs : List Byte) : (s.setBytes a bs).st = s.st := by
  rw [State.setBytes_eq]
@[simp] theorem State.setBytes_drf (s : State) (a : Nat) (bs : List Byte) : (s.setBytes a bs).drf = s.drf := by
  rw [State.setBytes_eq]
@[simp] theorem State.setBytes_pend (s : State) (a : Nat) (bs : List Byte) : (s.setBytes a bs).pend = s.pend := by
  rw [State.setBytes_eq]
@[simp] theorem State.setBytes_init (s : State) (a : Nat) (bs : List Byte) : (s.setBytes a bs).init = s.init := by
  rw [State.setBytes_eq]
@[simp] theorem State.setBytes_fault (s : State) (a : Nat) (bs : List Byte) : (s.setBytes a bs).fault = s.fault := by
  rw [State.setBytes_eq]
@[simp] theorem State.setBytes_cfg (s : State) (a : Nat) (bs : List Byte) : (s.setBytes a bs).cfg = s.cfg := by
  rw [State.setBytes_eq]
@[simp] theorem State.setBytes_rndFeed (s : State) (a : Nat) (bs : List Byte) : (s.setBytes a bs).rndFeed = s.rndFeed := by
  rw [State.setBytes_eq]
@[simp] theorem State.setBytes_draws (s : State) (a : Nat) (bs : List Byte) : (s.setBytes a bs).draws = s.draws := by
  rw [State.setBytes_eq]
@[simp] theorem State.setBytes_reg (s : State) (a : Nat) (bs : List Byte) (r : Reg) : (s.setBytes a bs).reg r = s.reg r := by
  simp [State.reg]

/-- The bytes after a block write: `bs` at `a`, `a + 1`, …, every other byte as it was. -/
theorem State.byteAt_setBytes (s : State) (a j : Nat) (bs : List Byte) :
    (s.setBytes a bs).byteAt j = if a ≤ j then (bs[j - a]?).getD (s.byteAt j) else s.byteAt j := by
  induction bs generalizing s a with
  | nil => simp [State.setBytes]
  | cons b bs ih =>
    rw [State.setBytes, ih]
    by_cases h : a + 1 ≤ j
    · have h1 : a ≤ j := by omega
      have h2 : j ≠ a := by omega
      obtain ⟨k, hk⟩ : ∃ k, j - a = k + 1 := ⟨j - a - 1, by omega⟩
      have h3 : j - (a + 1) = k := by omega
      simp [h, h1, h2, hk, h3]
    · by_cases h1 : j = a
      · subst h1; simp
      · have h2 : ¬ a ≤ j := by omega
        simp [h, h1, h2]

/-- A block write inside memory keeps the canonical form. -/
theorem State.setBytes_wf {s : State} {a : Nat} {bs : List Byte}
    (h : s.mem.wf (resetByte s.cfg.font)) (ha : a + bs.length ≤ memSize) :
    (s.setBytes a bs).mem.wf (resetByte s.cfg.font) := by
  induction bs generalizing s a with
  | nil => exact h
  | cons b bs ih =>
    simp only [List.length_cons] at ha
    exact ih (s := s.setByte a b) (Memory.write_wf h (by omega)) (by omega)

/-- A block is inside memory, or its first address outside is reported (R56). -/
theorem firstOutOfRange_eq_none {base count : Nat} :
    firstOutOfRange base count = none ↔ count = 0 ∨ base + count ≤ memSize := by
  unfold firstOutOfRange
  split <;> simp only [reduceCtorEq, false_iff, true_iff] <;> omega

theorem firstOutOfRange_eq_some {base count a : Nat} (h : firstOutOfRange base count = some a) :
    count ≠ 0 ∧ memSize < base + count ∧ a = max base memSize := by
  unfold firstOutOfRange at h
  split at h
  · simp only [Option.some.injEq] at h
    omega
  · cases h

/-! ### Loading registers -/

/-- Loading registers changes nothing but registers. -/
theorem State.loadRegs_eq (s : State) (n : Nat) : s.loadRegs n = { s with v := (s.loadRegs n).v } := by
  induction n with
  | zero => rfl
  | succ k ih =>
    simp only [State.loadRegs]
    split
    · rw [ih]; rfl
    · exact ih

@[simp] theorem State.loadRegs_i (s : State) (n : Nat) : (s.loadRegs n).i = s.i := by
  rw [State.loadRegs_eq]
@[simp] theorem State.loadRegs_pc (s : State) (n : Nat) : (s.loadRegs n).pc = s.pc := by
  rw [State.loadRegs_eq]
@[simp] theorem State.loadRegs_stack (s : State) (n : Nat) : (s.loadRegs n).stack = s.stack := by
  rw [State.loadRegs_eq]
@[simp] theorem State.loadRegs_mem (s : State) (n : Nat) : (s.loadRegs n).mem = s.mem := by
  rw [State.loadRegs_eq]
@[simp] theorem State.loadRegs_disp (s : State) (n : Nat) : (s.loadRegs n).disp = s.disp := by
  rw [State.loadRegs_eq]
@[simp] theorem State.loadRegs_key (s : State) (n : Nat) : (s.loadRegs n).key = s.key := by
  rw [State.loadRegs_eq]
@[simp] theorem State.loadRegs_dt (s : State) (n : Nat) : (s.loadRegs n).dt = s.dt := by
  rw [State.loadRegs_eq]
@[simp] theorem State.loadRegs_st (s : State) (n : Nat) : (s.loadRegs n).st = s.st := by
  rw [State.loadRegs_eq]
@[simp] theorem State.loadRegs_drf (s : State) (n : Nat) : (s.loadRegs n).drf = s.drf := by
  rw [State.loadRegs_eq]
@[simp] theorem State.loadRegs_pend (s : State) (n : Nat) : (s.loadRegs n).pend = s.pend := by
  rw [State.loadRegs_eq]
@[simp] theorem State.loadRegs_init (s : State) (n : Nat) : (s.loadRegs n).init = s.init := by
  rw [State.loadRegs_eq]
@[simp] theorem State.loadRegs_fault (s : State) (n : Nat) : (s.loadRegs n).fault = s.fault := by
  rw [State.loadRegs_eq]
@[simp] theorem State.loadRegs_cfg (s : State) (n : Nat) : (s.loadRegs n).cfg = s.cfg := by
  rw [State.loadRegs_eq]
@[simp] theorem State.loadRegs_rndFeed (s : State) (n : Nat) : (s.loadRegs n).rndFeed = s.rndFeed := by
  rw [State.loadRegs_eq]
@[simp] theorem State.loadRegs_draws (s : State) (n : Nat) : (s.loadRegs n).draws = s.draws := by
  rw [State.loadRegs_eq]
@[simp] theorem State.loadRegs_byteAt (s : State) (n j : Nat) : (s.loadRegs n).byteAt j = s.byteAt j := by
  simp [State.byteAt]

/-- The registers after loading `n` of them from `I` (R146). -/
theorem State.reg_loadRegs (s : State) (n : Nat) (r : Reg) :
    (s.loadRegs n).reg r = if r.val < n then s.byteAt (s.i.toNat + r.val) else s.reg r := by
  induction n with
  | zero => rfl
  | succ k ih =>
    simp only [State.loadRegs]
    split
    · rw [State.reg_setReg, ih]
      by_cases h : r.val = k
      · have : r = ⟨k, by omega⟩ := Fin.ext h
        simp [this]
      · have h1 : ¬ r = ⟨k, by omega⟩ := fun e => h (by rw [e])
        have h2 : (r.val < k + 1) ↔ r.val < k := by omega
        simp [h1, h2]
    · have := r.isLt
      have h1 : r.val < k := by omega
      rw [ih]
      simp [h1, show r.val < k + 1 by omega]

end Sys2Proof.Machine
end

