-- ==== Sys2Proof/Laws/Ops.lean ====
section
/-! SUPPORT. What each shared operation of the machine can answer, said once: faults, bounded blocks, key skips, drawing,
and the tick itself. Later proofs cite these and do not unfold the operations. -/

namespace Sys2Proof.Machine

/-- The state fault entry leaves (R205). -/
theorem raise_eq (c : FaultCause) (info : Word) (s : State) :
    raise c info s = .fault (c.toFault { s with pc := s.thisPc, fault := some ⟨c, s.thisPc, info⟩ }) := rfl

@[simp] theorem raise_ne_next (c : FaultCause) (info : Word) (s t : State) : raise c info s ≠ .next t := by
  simp [raise]

@[simp] theorem raise_ne_refused (c : FaultCause) (info : Word) (s : State) (r : Refusal) :
    raise c info s ≠ .refused r := by
  simp [raise]

@[simp] theorem FaultCause.after_toFault (c : FaultCause) (t : State) : (c.toFault t).after = t := by cases c <;> rfl

@[simp] theorem FaultCause.cause_toFault (c : FaultCause) (t : State) : (c.toFault t).cause = c := by cases c <;> rfl

/-- A fault raised in the execute phase leaves the state before the tick, with the latch set (R205). -/
theorem raise_after {c : FaultCause} {info : Word} {s : State} {f : Fault} (h : raise c info s = .fault f) :
    f.cause = c ∧ f.after = { s with pc := s.thisPc, fault := some ⟨c, s.thisPc, info⟩ } := by
  simp only [raise, Host.Outcome.fault.injEq] at h
  subst h
  exact ⟨FaultCause.cause_toFault _ _, FaultCause.after_toFault _ _⟩

/-- A bounded block goes on only when it is inside memory (R56). -/
theorem withBlock_next {s t : State} {base count : Nat} {go : Result} (h : s.withBlock base count go = .next t) :
    (count = 0 ∨ base + count ≤ memSize) ∧ go = .next t := by
  unfold State.withBlock at h
  split at h
  · exact absurd h (raise_ne_next _ _ _ _)
  · rename_i hn
    exact ⟨firstOutOfRange_eq_none.1 hn, h⟩

/-- A block inside memory goes on. -/
theorem withBlock_of_le {s : State} {base count : Nat} (go : Result) (h : count = 0 ∨ base + count ≤ memSize) :
    s.withBlock base count go = go := by
  unfold State.withBlock
  rw [firstOutOfRange_eq_none.2 h]

/-- A block that leaves memory raises `OutOfRange` with the first address outside (R56). -/
theorem withBlock_of_gt {s : State} {base count : Nat} (go : Result) (hc : count ≠ 0) (h : memSize < base + count) :
    s.withBlock base count go = raise .outOfRange (BitVec.ofNat 16 (max base memSize)) s := by
  unfold State.withBlock
  have : firstOutOfRange base count = some (max base memSize) := by
    unfold firstOutOfRange
    rw [if_pos ⟨hc, by omega⟩]
  rw [this]

/-- What a key skip answers: a skip or no skip when the register names a key, else a fault (R181, R182). -/
theorem skipOnKey_next {x : Reg} {test : Bool → Bool} {s t : State} (h : skipOnKey x test s = .next t) :
    ∃ k, s.keyOf x = some k ∧ t = s.skipIf (test (s.keyDown k)) := by
  unfold skipOnKey at h
  split at h
  · rename_i k hk
    exact ⟨k, hk, by simpa [eq_comm] using h⟩
  · exact absurd h (raise_ne_next _ _ _ _)

/-- Drawing changes a cell once for every time it is named (R162). -/
theorem foldl_plot_cell (ps : List Pixel) (acc : Display × Bool) (q : Pixel) :
    cellAt (ps.foldl plot acc).1 q = (cellAt acc.1 q ^^ (ps.count q % 2 == 1)) := by
  induction ps generalizing acc with
  | nil => simp
  | cons p ps ih =>
    rw [List.foldl_cons, ih, plot, cellAt_toggleCell, List.count_cons]
    by_cases h : q = p
    · subst h
      rcases Nat.mod_two_eq_zero_or_one (ps.count q) with hc | hc <;> simp [hc, Nat.add_mod]
    · simp [h, Ne.symm h]

/-- The collision flag of a drawing whose cells are all different: some cell held 1 before (R166). -/
theorem foldl_plot_hit (ps : List Pixel) (acc : Display × Bool) (h : ps.Nodup) :
    (ps.foldl plot acc).2 = (acc.2 || ps.any (cellAt acc.1)) := by
  induction ps generalizing acc with
  | nil => simp
  | cons p ps ih =>
    obtain ⟨hp, hps⟩ := List.nodup_cons.1 h
    rw [List.foldl_cons, ih _ hps, List.any_cons]
    have : ps.any (cellAt (plot acc p).1) = ps.any (cellAt acc.1) := by
      have hc : ∀ q ∈ ps, cellAt (plot acc p).1 q = cellAt acc.1 q := fun q hq => by
        have hne : q ≠ p := fun e => hp (e ▸ hq)
        simp [plot, hne]
      rw [Bool.eq_iff_iff, List.any_eq_true, List.any_eq_true]
      exact exists_congr fun q => and_congr_right fun hq => by rw [hc q hq]
    rw [this, plot, Bool.or_assoc]

/-! ### The tick (R70) -/

/-- The tick fetches exactly when the core is running (R70 steps 1 to 3). -/
theorem beforeFetch_eq_none {s : State} : s.beforeFetch = none ↔ s.Running := by
  unfold State.beforeFetch State.Running State.halted
  cases hi : s.init <;> cases hf : s.fault <;> simp

theorem step_of_running {s : State} (h : s.Running) :
    step s = match s.fetch with
      | .error (c, info) => raise c info s.advance
      | .ok i => exec i s.advance := by
  cases hf : s.fetch <;> simp only [step, beforeFetch_eq_none.2 h, hf]

/-- Everything a tick that answers a next state can have done: nothing, halted; or run the instruction at `pc` (R70). -/
theorem step_next_cases {s t : State} (h : step s = .next t) :
    (s.GoodEnd ∧ t = s) ∨ (s.Running ∧ ∃ i, s.fetch = .ok i ∧ exec i s.advance = .next t) := by
  by_cases hr : s.Running
  · right
    rw [step_of_running hr] at h
    refine ⟨hr, ?_⟩
    split at h
    · exact absurd h (raise_ne_next _ _ _ _)
    · rename_i i hi
      exact ⟨i, hi, h⟩
  · left
    unfold step at h
    cases hb : s.beforeFetch with
    | none => exact absurd (beforeFetch_eq_none.1 hb) hr
    | some r =>
      rw [hb] at h
      simp only at h
      subst h
      unfold State.beforeFetch at hb
      split at hb
      · simp at hb
      · split at hb
        · simp at hb
        · split at hb
          · rename_i h1 h2 h3
            simp only [Option.some.injEq, Host.Outcome.next.injEq] at hb
            refine ⟨⟨by simpa using h1, by simpa using h2, by simpa [State.halted] using h3⟩, hb.symm⟩
          · cases hb

/-- Everything a tick that ends in a fault can have done: the fetch or the decoder raised it, or the instruction did. -/
theorem step_fault_cases {s : State} {f : Fault} (h : step s = .fault f) :
    s.Running ∧ ((∃ c info, s.fetch = .error (c, info) ∧ raise c info s.advance = .fault f) ∨
      ∃ i, s.fetch = .ok i ∧ exec i s.advance = .fault f) := by
  by_cases hr : s.Running
  · refine ⟨hr, ?_⟩
    rw [step_of_running hr] at h
    split at h
    · rename_i c info hc
      exact .inl ⟨c, info, hc, h⟩
    · rename_i i hi
      exact .inr ⟨i, hi, h⟩
  · unfold step at h
    cases hb : s.beforeFetch with
    | none => exact absurd (beforeFetch_eq_none.1 hb) hr
    | some r =>
      rw [hb] at h
      simp only at h
      subst h
      unfold State.beforeFetch at hb
      split_ifs at hb <;> simp at hb

/-- A halted tick changes nothing (R24). -/
theorem step_of_goodEnd {s : State} (h : s.GoodEnd) : step s = .next s := by
  obtain ⟨h1, h2, h3⟩ := h
  simp [step, State.beforeFetch, State.halted, h1, h2, h3]

/-- Two bytes put together and taken apart (R44). -/
@[simp] theorem wordOfBytes_split (w : Word) : wordOfBytes (w.extractLsb' 8 8) (w.extractLsb' 0 8) = w := by
  apply BitVec.eq_of_getLsbD_eq
  intro k hk
  simp only [wordOfBytes, BitVec.getLsbD_append, BitVec.getLsbD_extractLsb']
  by_cases h : k < 8
  · simp [h]
  · have : k - 8 < 8 := by omega
    simp [h, this, show 8 + (k - 8) = k by omega]

/-- Decoding bytes is decoding their word (R44, R60). -/
theorem decode_two (hi lo : Byte) (rest : List Byte) :
    decode (hi :: lo :: rest) = match decodeWord (wordOfBytes hi lo) with
      | .ok i => .ok (i, rest)
      | .error e => .error e := rfl

/-- The fetch inside memory: what the decoder says of the word at `pc` (R44, R70). -/
theorem fetch_of_lt {s : State} (h : s.pc.toNat + 1 < memSize) :
    s.fetch = match decodeWord s.wordAtPc with
      | .ok i => .ok i
      | .error _ => .error (.unknownOpcode, s.wordAtPc) := by
  unfold State.fetch
  rw [firstOutOfRange_eq_none.2 (.inr (by omega)), decode_two, State.wordAtPc]
  cases decodeWord (wordOfBytes (s.byteAt s.pc.toNat) (s.byteAt (s.pc.toNat + 1))) <;> rfl

end Sys2Proof.Machine
end

