-- ==== Sys2Proof/Tests/Slice0.lean ====
section
/-! SUPPORT. The model's own tests: ill-formed terms the checks refuse, one written-out word per instruction, one-step tests
on the vectors of spec/95_test_vectors.md (the id of the vector stands before each), and a witness for the hypotheses of each
statement. -/

namespace Sys2Proof.Machine.Tests

set_option Elab.async false

/-! ### Ill-formed terms -/

/-- R232: 3585 bytes do not fit, 3584 do (H6). -/
theorem test_rom_one_byte_too_long_is_refused : romFits (List.replicate 3585 0) = false := by decide +kernel
theorem test_longest_rom_fits : romFits (List.replicate 3584 0) = true := by decide +kernel

/-- `STACK_DEPTH` is `none` or a positive number. -/
theorem test_stack_depth_zero_is_refused : Config.wf ⟨true, true, true, Config.defaultFont, some 0⟩ = false := by decide
theorem test_session_is_well_formed : Config.session.wf = true := by decide

/-! ### Decoding: one word per instruction, written out from the patterns of R66 -/

theorem test_decode_cls : decodeWord 0b0000000011100000 = .ok .cls := by decide
theorem test_decode_ret : decodeWord 0b0000000011101110 = .ok .ret := by decide
theorem test_decode_jp : decodeWord 0b0001101010111100 = .ok (.jp 0xABC) := by decide
theorem test_decode_call : decodeWord 0b0010101010111100 = .ok (.call 0xABC) := by decide
theorem test_decode_seVxNn : decodeWord 0b0011001110010110 = .ok (.seVxNn 3 0x96) := by decide
theorem test_decode_sneVxNn : decodeWord 0b0100001110010110 = .ok (.sneVxNn 3 0x96) := by decide
theorem test_decode_seVxVy : decodeWord 0b0101001110100000 = .ok (.seVxVy 3 10) := by decide
theorem test_decode_ldVxNn : decodeWord 0b0110001110010110 = .ok (.ldVxNn 3 0x96) := by decide
theorem test_decode_addVxNn : decodeWord 0b0111001110010110 = .ok (.addVxNn 3 0x96) := by decide
theorem test_decode_ldVxVy : decodeWord 0b1000001110100000 = .ok (.ldVxVy 3 10) := by decide
theorem test_decode_orVxVy : decodeWord 0b1000001110100001 = .ok (.orVxVy 3 10) := by decide
theorem test_decode_andVxVy : decodeWord 0b1000001110100010 = .ok (.andVxVy 3 10) := by decide
theorem test_decode_xorVxVy : decodeWord 0b1000001110100011 = .ok (.xorVxVy 3 10) := by decide
theorem test_decode_addVxVy : decodeWord 0b1000001110100100 = .ok (.addVxVy 3 10) := by decide
theorem test_decode_subVxVy : decodeWord 0b1000001110100101 = .ok (.subVxVy 3 10) := by decide
theorem test_decode_shrVxVy : decodeWord 0b1000001110100110 = .ok (.shrVxVy 3 10) := by decide
theorem test_decode_subnVxVy : decodeWord 0b1000001110100111 = .ok (.subnVxVy 3 10) := by decide
theorem test_decode_shlVxVy : decodeWord 0b1000001110101110 = .ok (.shlVxVy 3 10) := by decide
theorem test_decode_sneVxVy : decodeWord 0b1001001110100000 = .ok (.sneVxVy 3 10) := by decide
theorem test_decode_ldINnn : decodeWord 0b1010101010111100 = .ok (.ldINnn 0xABC) := by decide
theorem test_decode_jpV0Nnn : decodeWord 0b1011101010111100 = .ok (.jpV0Nnn 0xABC) := by decide
theorem test_decode_rndVxNn : decodeWord 0b1100001110010110 = .ok (.rndVxNn 3 0x96) := by decide
theorem test_decode_drwVxVyN : decodeWord 0b1101001110100101 = .ok (.drwVxVyN 3 10 5) := by decide
theorem test_decode_skpVx : decodeWord 0b1110001110011110 = .ok (.skpVx 3) := by decide
theorem test_decode_sknpVx : decodeWord 0b1110001110100001 = .ok (.sknpVx 3) := by decide
theorem test_decode_ldVxDt : decodeWord 0b1111001100000111 = .ok (.ldVxDt 3) := by decide
theorem test_decode_ldVxK : decodeWord 0b1111001100001010 = .ok (.ldVxK 3) := by decide
theorem test_decode_ldDtVx : decodeWord 0b1111001100010101 = .ok (.ldDtVx 3) := by decide
theorem test_decode_ldStVx : decodeWord 0b1111001100011000 = .ok (.ldStVx 3) := by decide
theorem test_decode_addIVx : decodeWord 0b1111001100011110 = .ok (.addIVx 3) := by decide
theorem test_decode_ldFVx : decodeWord 0b1111001100101001 = .ok (.ldFVx 3) := by decide
theorem test_decode_ldBVx : decodeWord 0b1111001100110011 = .ok (.ldBVx 3) := by decide
theorem test_decode_ldMemIVx : decodeWord 0b1111001101010101 = .ok (.ldMemIVx 3) := by decide
theorem test_decode_ldVxMemI : decodeWord 0b1111001101100101 = .ok (.ldVxMemI 3) := by decide

/-- E1, E5, E7 to E9: neighbours of instructions that are none (R67, R68). -/
theorem test_unknown_words : [0x0000, 0x00E1, 0x5121, 0x9121, 0x8018, 0x801F, 0xE09F, 0xF030].all
    (fun w : Word => decodeWord w == .error (.unknownOpcode w)) = true := by decide

theorem test_decode_hands_the_rest_back : decode [0x60, 0x0A, 0x61] = .ok (.ldVxNn 0 0x0A, [0x61]) := by decide
theorem test_decode_of_one_byte : decode [0x60] = .error .tooShort := by decide
theorem test_decode_table_word : decodeTableWord 16 0x8014 = some (.addVxVy 0 1) := by decide

/-! ### Helpers: a small session, an instruction at 0x200, what one tick gives -/

/-- The state after Reset with the empty ROM, the quirk options as given, an unbounded stack. -/
def base (shiftCopy increment clipping : Bool) : State :=
  { State.reset with cfg := ⟨shiftCopy, increment, clipping, Config.defaultFont, none⟩ }

/-- With a list of register values. -/
def withRegs (s : State) (rs : List (Reg × Byte)) : State := rs.foldl (fun s p => s.setReg p.1 p.2) s

/-- With bytes at an address. -/
def withBytes (s : State) (a : Nat) (bs : List Byte) : State := s.setBytes a bs

/-- With cells lit. -/
def withLit (s : State) (ps : List Pixel) : State := { s with disp := ps.foldl toggleCell s.disp }

/-- One tick of the word `w` at `pc` answers a next state with `p`. -/
def ticks (w : Nat) (s : State) (p : State → Bool) : Bool :=
  match step (s.withFetchWord 16 w) with
  | .next t => p t
  | _ => false

/-- One tick of the word `w` faults with the record, and changes nothing else (R205). -/
def tickFaults (w : Nat) (s : State) (c : FaultCause) (info : Word) : Bool :=
  match step (s.withFetchWord 16 w) with
  | .fault f => f.cause == c && f.after == { s.withFetchWord 16 w with fault := some ⟨c, s.pc, info⟩ }
  | _ => false

/-- Exactly these cells are lit. -/
def litIs (t : State) (ps : List Pixel) : Bool := t.disp == ps.foldl toggleCell clearDisplay

def s0 : State := base false false false
def s1 : State := base true true true

/-! ### The tick -/

/-- The host's question: every row's word runs as the first instruction after reset. -/
theorem test_first_instruction_after_reset : ticks 0x600A State.reset (fun t => t.reg 0 == 0x0A && t.pc == 0x202) = true := by
  decide +kernel

/-- H5: the empty ROM is halted from the start. -/
theorem test_reset_is_halted : State.reset.condition = .halted := by decide

/-- E1. -/
theorem test_unknown_opcode_faults : tickFaults 0x0000 s0 .unknownOpcode 0x0000 = true := by decide +kernel

/-- H1. -/
theorem test_fetch_past_memory_faults :
    (match step { s0 with pc := 0xFFF, pend := 0x1000 } with
      | .fault f => f.after.fault == some ⟨.outOfRange, 0xFFF, 0x1000⟩ && f.after.pc == 0xFFF
      | _ => false) = true := by decide +kernel

/-- H3: an odd `pc` fetches the word that starts there (D11). -/
theorem test_odd_pc : ticks 0x6A42 { s0 with pc := 0x203 } (fun t => t.reg 10 == 0x42 && t.pc == 0x205) = true := by
  decide +kernel

/-! ### Control transfer -/

/-- B2. -/
theorem test_jp : ticks 0x1FFF s0 (fun t => t.pc == 0xFFF) = true := by decide +kernel
/-- B3. -/
theorem test_call : ticks 0x2ABC s0 (fun t => t.pc == 0xABC && t.stack == [0x202]) = true := by decide +kernel
/-- R204, a stack of depth 1 that is full. -/
theorem test_call_overflows :
    tickFaults 0x2ABC { s0 with stack := [0x300], cfg := { s0.cfg with stackDepth := some 1 } } .stackOverflow 0 = true := by
  decide +kernel
/-- B4: 030A was pushed last. -/
theorem test_ret : ticks 0x00EE { s0 with stack := [0x30A, 0x202] } (fun t => t.pc == 0x30A && t.stack == [0x202]) = true := by
  decide +kernel
/-- B5. -/
theorem test_ret_underflows : tickFaults 0x00EE s0 .stackUnderflow 0 = true := by decide +kernel
/-- B6. -/
theorem test_jp_v0_is_not_reduced : ticks 0xBFFF (withRegs s0 [(0, 0xFF)]) (fun t => t.pc == 0x10FE) = true := by decide +kernel
/-- B7. -/
theorem test_jp_v0_uses_v0 : ticks 0xB300 (withRegs s0 [(0, 4), (3, 0x77)]) (fun t => t.pc == 0x304) = true := by
  decide +kernel
/-- B8, B9. -/
theorem test_se_nn_taken : ticks 0x332A (withRegs s0 [(3, 0x2A)]) (fun t => t.pc == 0x204) = true := by decide +kernel
theorem test_se_nn_not_taken : ticks 0x332A (withRegs s0 [(3, 0x2B)]) (fun t => t.pc == 0x202) = true := by decide +kernel
/-- B11, B12. -/
theorem test_sne_nn_not_taken : ticks 0x432A (withRegs s0 [(3, 0x2A)]) (fun t => t.pc == 0x202) = true := by decide +kernel
theorem test_sne_nn_taken : ticks 0x432A s0 (fun t => t.pc == 0x204) = true := by decide +kernel
/-- B13, B14. -/
theorem test_se_vv_taken : ticks 0x5120 (withRegs s0 [(1, 7), (2, 7)]) (fun t => t.pc == 0x204) = true := by decide +kernel
theorem test_se_vv_not_taken : ticks 0x5120 (withRegs s0 [(1, 7), (2, 8)]) (fun t => t.pc == 0x202) = true := by decide +kernel
/-- B16, B17. -/
theorem test_sne_vv_taken : ticks 0x9120 (withRegs s0 [(1, 7), (2, 8)]) (fun t => t.pc == 0x204) = true := by decide +kernel
theorem test_sne_vv_not_taken : ticks 0x9120 (withRegs s0 [(1, 7), (2, 7)]) (fun t => t.pc == 0x202) = true := by decide +kernel

/-! ### Arithmetic, logic, shifts, random -/

/-- A36. -/
theorem test_ld_nn : ticks 0x600A s0 (fun t => t.reg 0 == 0x0A && t.pc == 0x202) = true := by decide +kernel
/-- A32, A33. -/
theorem test_add_nn_to_vf : ticks 0x7FFF (withRegs s0 [(15, 1)]) (fun t => t.reg 15 == 0) = true := by decide +kernel
theorem test_add_nn_keeps_vf : ticks 0x70FF (withRegs s0 [(15, 1)]) (fun t => t.reg 0 == 0xFF && t.reg 15 == 1) = true := by
  decide +kernel
/-- A35. -/
theorem test_ld_vv : ticks 0x8010 (withRegs s0 [(0, 1), (1, 0x33), (15, 1)])
    (fun t => t.reg 0 == 0x33 && t.reg 1 == 0x33 && t.reg 15 == 1) = true := by decide +kernel
/-- A27, A31. -/
theorem test_or : ticks 0x8011 (withRegs s0 [(0, 0x0F), (1, 0xF0), (15, 1)]) (fun t => t.reg 0 == 0xFF && t.reg 15 == 0) = true := by
  decide +kernel
theorem test_or_vf_vf : ticks 0x8FF1 (withRegs s0 [(15, 0x77)]) (fun t => t.reg 15 == 0) = true := by decide +kernel
/-- R126's example, A28. -/
theorem test_and : ticks 0x8012 (withRegs s0 [(0, 0x3C), (1, 0x0F)]) (fun t => t.reg 0 == 0x0C && t.reg 15 == 0) = true := by
  decide +kernel
theorem test_and_to_vf : ticks 0x8F12 (withRegs s0 [(15, 0xFF), (1, 0xFF)]) (fun t => t.reg 15 == 0) = true := by decide +kernel
/-- A29, A30. -/
theorem test_xor_reads_vf_first : ticks 0x80F3 (withRegs s0 [(0, 0xAA), (15, 0xFF)]) (fun t => t.reg 0 == 0x55 && t.reg 15 == 0)
    = true := by decide +kernel
theorem test_xor_same : ticks 0x8003 (withRegs s0 [(0, 0x5A), (15, 1)]) (fun t => t.reg 0 == 0 && t.reg 15 == 0) = true := by
  decide +kernel
/-- A1, A4. -/
theorem test_add_wraps : ticks 0x8014 (withRegs s0 [(0, 0xFF), (1, 1)]) (fun t => t.reg 0 == 0 && t.reg 15 == 1) = true := by
  decide +kernel
theorem test_add_to_vf_is_carry : ticks 0x8F14 (withRegs s0 [(15, 0xF0), (1, 0x20)]) (fun t => t.reg 15 == 1) = true := by
  decide +kernel
/-- A7, A11. -/
theorem test_sub_borrows : ticks 0x8015 (withRegs s0 [(0, 5), (1, 10)]) (fun t => t.reg 0 == 0xFB && t.reg 15 == 0) = true := by
  decide +kernel
theorem test_sub_to_vf_is_flag : ticks 0x8F15 (withRegs s0 [(15, 5), (1, 3)]) (fun t => t.reg 15 == 1) = true := by decide +kernel
/-- A14, A15. -/
theorem test_subn : ticks 0x8017 (withRegs s0 [(0, 5), (1, 10)]) (fun t => t.reg 0 == 5 && t.reg 15 == 1) = true := by
  decide +kernel
theorem test_subn_borrows : ticks 0x8017 (withRegs s0 [(0, 10), (1, 5)]) (fun t => t.reg 0 == 0xFB && t.reg 15 == 0) = true := by
  decide +kernel
/-- A17, A18: the two modes of `cfg.shift_copy`. -/
theorem test_shr_in_place : ticks 0x8016 (withRegs s0 [(0, 5), (1, 8)]) (fun t => t.reg 0 == 2 && t.reg 15 == 1) = true := by
  decide +kernel
theorem test_shr_copy : ticks 0x8016 (withRegs s1 [(0, 5), (1, 8)]) (fun t => t.reg 0 == 4 && t.reg 1 == 8 && t.reg 15 == 0)
    = true := by decide +kernel
/-- A23, A24. -/
theorem test_shl_in_place : ticks 0x801E (withRegs s0 [(0, 0x81), (1, 0x40)]) (fun t => t.reg 0 == 2 && t.reg 15 == 1) = true := by
  decide +kernel
theorem test_shl_copy : ticks 0x801E (withRegs s1 [(0, 0x81), (1, 0x40)]) (fun t => t.reg 0 == 0x80 && t.reg 15 == 0) = true := by
  decide +kernel
/-- A37, A40, through `Tick(rnd)`. -/
theorem test_rnd_mask : (sessionStep (s0.withFetchWord 16 0xC30F) (.tick 0xA7)).reg 3 = 7 := by decide +kernel
theorem test_rnd_masked_away : (sessionStep (s0.withFetchWord 16 0xC3F0) (.tick 0x0F)).reg 3 = 0 := by decide +kernel

/-! ### Index register and memory -/

/-- M15. -/
theorem test_ld_i : ticks 0xAFFF s0 (fun t => t.i == 0xFFF) = true := by decide +kernel
/-- M6, M8. -/
theorem test_add_i_wraps : ticks 0xF21E { withRegs s0 [(2, 1), (15, 7)] with i := 0xFFFF } (fun t => t.i == 0 && t.reg 15 == 1)
    = true := by decide +kernel
theorem test_add_i_vf : ticks 0xFF1E { withRegs s0 [(15, 1)] with i := 0xFFF } (fun t => t.i == 0x1000 && t.reg 15 == 1) = true := by
  decide +kernel
/-- M11, M14. -/
theorem test_ld_f : ticks 0xF429 (withRegs s0 [(4, 10)]) (fun t => t.i == 0x82 && t.bytesAt 0x82 5 == [0xF0, 0x90, 0xF0, 0x90, 0x90])
    = true := by decide +kernel
theorem test_ld_f_is_not_masked : ticks 0xF429 (withRegs s0 [(4, 0xFF)]) (fun t => t.i == 0x54B) = true := by decide +kernel
/-- M17, M18. -/
theorem test_bcd_at_the_top : ticks 0xF533 { withRegs s0 [(5, 255)] with i := 0xFFD } (fun t => t.bytesAt 0xFFD 3 == [2, 5, 5])
    = true := by decide +kernel
theorem test_bcd_faults : tickFaults 0xF533 { withRegs s0 [(5, 255)] with i := 0xFFE } .outOfRange 0x1000 = true := by
  decide +kernel
/-- M21, M25. -/
theorem test_store : ticks 0xF255 { withRegs s1 [(0, 0x11), (1, 0x22), (2, 0x33), (3, 0x44)] with i := 0x400 }
    (fun t => t.bytesAt 0x400 4 == [0x11, 0x22, 0x33, 0] && t.i == 0x403) = true := by decide +kernel
theorem test_store_faults : tickFaults 0xFF55 { withRegs s1 [(0, 1), (15, 16)] with i := 0xFF1 } .outOfRange 0x1000 = true := by
  decide +kernel
/-- M22, M27. -/
theorem test_load : ticks 0xF265 { withRegs (withBytes s0 0x400 [0x11, 0x22, 0x33, 0x99]) [(3, 0x44)] with i := 0x400 }
    (fun t => t.reg 0 == 0x11 && t.reg 1 == 0x22 && t.reg 2 == 0x33 && t.reg 3 == 0x44 && t.i == 0x400) = true := by
  decide +kernel
theorem test_load_faults : tickFaults 0xF165 { withRegs s0 [(0, 5)] with i := 0xFFF } .outOfRange 0x1000 = true := by
  decide +kernel
/-- Writing the byte an unlisted address reads as removes the entry: equal memories are equal data. -/
theorem test_memory_is_canonical : ((s0.setBytes 0x300 [7, 9]).setBytes 0x300 [0, 0]).mem = s0.mem := by decide +kernel

/-! ### Display -/

/-- G14. -/
theorem test_cls : ticks 0x00E0 { withLit (withRegs s0 [(15, 1)]) [(3, 4), (63, 31)] with drf := true }
    (fun t => litIs t [] && t.reg 15 == 1 && t.drf && t.pc == 0x202) = true := by decide +kernel
/-- G6 without clipping: the sprite wraps to the left edge and clears a lit cell. -/
theorem test_drw_wraps : ticks 0xD011
    { withLit (withBytes (withRegs s0 [(0, 60)]) 0x300 [0xFF]) [(0, 0)] with i := 0x300, drf := true }
    (fun t => litIs t [(60, 0), (61, 0), (62, 0), (63, 0), (1, 0), (2, 0), (3, 0)] && t.reg 15 == 1 && !t.drf) = true := by
  decide +kernel
/-- G9 with clipping: bit 7 leftmost, a collision. -/
theorem test_drw_bit_order : ticks 0xD011
    { withLit (withBytes (withRegs s1 [(0, 8), (1, 4), (15, 1)]) 0x300 [0xA5]) [(8, 4), (9, 4)] with i := 0x300, drf := true }
    (fun t => litIs t [(9, 4), (10, 4), (13, 4), (15, 4)] && t.reg 15 == 1) = true := by decide +kernel

/-! ### Keys and timers -/

/-- K5, K6. -/
theorem test_skp : ticks 0xE29E (withRegs (s0.setKey 15 true) [(2, 15)]) (fun t => t.pc == 0x204) = true := by decide +kernel
theorem test_skp_faults : tickFaults 0xE29E (withRegs s0 [(2, 0x10)]) .outOfRange 0x10 = true := by decide +kernel
/-- K3, K6. -/
theorem test_sknp : ticks 0xE2A1 (withRegs s0 [(2, 10)]) (fun t => t.pc == 0x204) = true := by decide +kernel
theorem test_sknp_faults : tickFaults 0xE2A1 (withRegs s0 [(2, 0xFF)]) .outOfRange 0xFF = true := by decide +kernel
/-- K10. -/
theorem test_ld_dt : ticks 0xF307 { s0 with dt := 0x3C } (fun t => t.reg 3 == 0x3C && t.dt == 0x3C) = true := by decide +kernel
/-- K8, K7. -/
theorem test_wait_lowest_key : ticks 0xF50A ((s0.setKey 7 true).setKey 3 true) (fun t => t.reg 5 == 3 && t.pc == 0x202) = true := by
  decide +kernel
theorem test_wait_stalls : ticks 0xF50A s0 (fun t => t == s0.withFetchWord 16 0xF50A) = true := by decide +kernel
/-- K11, K12. -/
theorem test_set_dt : ticks 0xF315 (withRegs s0 [(3, 2)]) (fun t => t.dt == 2 && t.frame.dt == 1 && t.frame.frame.frame.dt == 0)
    = true := by decide +kernel
theorem test_set_st : ticks 0xF318 (withRegs s0 [(3, 0xFF)]) (fun t => t.st == 0xFF && t.frame.st == 0xFE) = true := by
  decide +kernel

/-! ### The host -/

/-- S6's ROM: what Reset places where. -/
theorem test_reset_places_the_rom :
    let t := s0.resetWith [0x60, 0x0A, 0x61, 0x05, 0x80, 0x14]
    t.bytesAt 0x200 7 = [0x60, 0x0A, 0x61, 0x05, 0x80, 0x14, 0] ∧ t.pend = 0x206 ∧ t.bytesAt 0x50 5 = [0xF0, 0x90, 0x90, 0x90, 0xF0] ∧
      t.byteAt 0xA0 = 0 := by decide +kernel
/-- `State.reset` is the Reset with the empty ROM (log 4). -/
theorem test_reset_is_reset_with_empty_rom : State.reset.resetWith [] = State.reset := rfl
/-- E11: a second tick after a fault is refused and changes nothing. -/
theorem test_faulted_tick_is_refused :
    let t := sessionStep (s0.withFetchWord 16 0x0000) (.tick 0)
    t.condition = .faulted ∧ hostEvent (.tick 0) t = .refused .alreadyFaulted ∧ sessionStep t (.tick 0) = t := by
  refine ⟨by decide +kernel, rfl, rfl⟩
/-- R236, D2: the order of pulses in one clock. -/
theorem test_pulse_order : Pulses.events ⟨some [0x60], some (3, true), true, some 7⟩ =
    [.reset [0x60], .keyDown 3, .frame, .tick 7] := by decide
/-- R216, R214. -/
theorem test_read_out : let r := ({ s0 with st := 3 } : State).readOut
    r.st = 3 ∧ r.soundActive = true ∧ r.halted = true ∧ r.fault = none ∧ r.init = true := by decide +kernel

/-! ### Witnesses: states and operands that meet the hypotheses of the statements -/

/-- A session that can execute: `6A42` at 0x200. -/
def running : State := s0.withFetchWord 16 0x6A42

theorem running_running : running.Running := ⟨by decide +kernel, by decide +kernel, by decide +kernel⟩

theorem running_ranges : running.Ranges where
  pend := by decide +kernel
  pc := by decide +kernel
  stack := by intro w h; cases h
  depth := by intro n h; cases h
  mem := by
    show running.mem.wf (resetByte running.cfg.font)
    decide +kernel

theorem witness_EncodeOfDecodeIsTheWord : decodeWord 0xDEF5 = .ok (.drwVxVyN 14 15 5) := by decide
theorem witness_OpcodeRowsAreDisjoint : ∃ r ∈ opcodeTable, r.selects 0x8014 = true :=
  ⟨⟨"ADD_VX__VY", 0x8004, 0xF00F, fun w => .addVxVy (fieldX w) (fieldY w)⟩, by simp [opcodeTable, rowsAlu], by decide⟩
theorem witness_StepRunsFetchedInstruction : running.Running ∧ running.pc.toNat + 1 < 4096 ∧
    decode [running.byteAt running.pc.toNat, running.byteAt (running.pc.toNat + 1)] = .ok (.ldVxNn 10 0x42, []) :=
  ⟨running_running, by decide +kernel, by decide +kernel⟩
/-- The last address a word fits at, and 0xFFF where it does not. -/
theorem witness_FetchFaults :
    (let s := { s0 with pc := 0xFFE, pend := 0x1000 };
      s.Running ∧ s.pc.toNat + 1 < 4096 ∧ s.byteAt s.pc.toNat ++ s.byteAt (s.pc.toNat + 1) = (0 : Word) ∧
        decodeWord 0 = .error (.unknownOpcode 0)) ∧
    (let s := { s0 with pc := 0xFFF, pend := 0x1000 }; s.Running ∧ s.pc = 0xFFF) :=
  ⟨⟨⟨by decide +kernel, by decide +kernel, by decide +kernel⟩, by decide +kernel, by decide +kernel, by decide⟩,
    ⟨by decide +kernel, by decide +kernel, by decide +kernel⟩, rfl⟩
theorem witness_HaltedTicksChangeNothing : s0.GoodEnd := ⟨by decide, by decide, by decide⟩
theorem witness_RefusedTicks : ({ s0 with init := false } : State).init = false ∧
    ({ s0 with fault := some ⟨.stackUnderflow, 0x200, 0⟩ } : State).fault ≠ none ∧ s0.init = true ∧ s0.fault = none := by decide
theorem witness_TicksProgressAndNeverWakeThemselves : running.init = true ∧ running.fault = none ∧
    (match step running with | .next t => t.reg 10 == 0x42 | _ => false) = true := by decide +kernel
theorem witness_StallsAndHaltsAreNoExceptions : (s0.withFetchWord 16 0xF50A).stalled = true ∧
    (s0.withFetchWord 16 0xD011).stalled = true ∧ s0.condition = .halted := by decide +kernel
/-- The largest targets, past every `PEND`; a last digit that is not 0. -/
theorem witness_JumpsReplacePc : s0.init = true ∧ s0.fault = none ∧ s0.pend ≤ ((0 : BitVec 4) ++ (0xFFF : Addr12) : Word).toNat ∧
    (0xFFF : Addr12).toNat + ((withRegs s0 [(0, 0xFF)]).reg 0).toNat = 0x10FE := by decide +kernel
theorem witness_SkipsOnRegisters : (1 : BitVec 4) ≠ 0 := by decide
/-- A stack of depth 2 with one entry takes a call, with two it is full. -/
theorem witness_CallPushesReturnAddress :
    (∀ n, ({ s0 with stack := [0x300], cfg := { s0.cfg with stackDepth := some 2 } } : State).cfg.stackDepth = some n → 1 < n) ∧
    ({ s0 with stack := [0x300, 0x302], cfg := { s0.cfg with stackDepth := some 2 } } : State).cfg.stackDepth = some 2 := by
  refine ⟨fun n h => ?_, rfl⟩
  simp only [Option.some.injEq] at h
  omega
theorem witness_ReturnPopsOrUnderflows : ({ s0 with stack := [0x30A] } : State).stack = [0x30A] ∧ s0.stack = [] := by decide
theorem witness_CallThenReturnComesBack : (∃ t, exec (.call 0xABC) s0 = .next t ∧ t.stack = [0x200]) ∧
    ({ s0 with stack := [0x200] } : State).stack = [0x200] := ⟨⟨_, rfl, rfl⟩, rfl⟩
/-- The last register whose result is kept, and the other one as its own source. -/
theorem witness_LogicForcesVfToZero : (14 : Reg) ≠ 15 ∧ (0 : Reg) ≠ 14 := by decide
theorem witness_AddSetsCarry : (14 : Reg) ≠ 15 ∧ (withRegs s0 [(14, 0x80)]).reg 14 = 0x80 := by decide +kernel
theorem witness_SubtractsSetNotBorrow : (14 : Reg) ≠ 15 ∧ (withRegs s0 [(14, 0x33)]).reg 14 = 0x33 := by decide +kernel
theorem witness_ShiftsByOne : (0x08 : Byte) = (if (withRegs s1 [(0, 5), (1, 8)]).cfg.shiftCopy then
    (withRegs s1 [(0, 5), (1, 8)]).reg 1 else (withRegs s1 [(0, 5), (1, 8)]).reg 0) := by decide +kernel
theorem witness_RandomUnderMask : (s0.withFeed [0xA7, 0x5C]).rndFeed = 0xA7 :: [0x5C] ∧ (0x0F : Byte).getLsbD 7 = false := by
  decide
theorem witness_TickDrawsTheHostsByte : (s0.withFetchWord 16 0xC30F).Running ∧
    (s0.withFetchWord 16 0xC30F).fetch = .ok (.rndVxNn 3 0x0F) :=
  ⟨⟨by decide +kernel, by decide +kernel, by decide +kernel⟩, by decide +kernel⟩
theorem witness_OtherTicksIgnoreTheRandomByte : running.fetch = .ok (.ldVxNn 10 0x42) := by decide +kernel
theorem witness_AluNeverFaults : isAlu (.rndVxNn 15 0xFF) = true := by decide
/-- After a Reset with a ROM that is not empty; the last byte of the last glyph. -/
theorem witness_GlyphAddress :
    let s := withRegs (s0.resetWith [0xF4, 0x29]) [(4, 15)]
    s.mem ≠ [] ∧ (∀ k : Fin 80, s.byteAt (0x50 + k.val) = s.cfg.font[k]) ∧ 5 * (s.reg 4).toNat + 4 < 80 := by decide +kernel
theorem witness_DigitsAreStored : ({ s0 with i := 0xFFD } : State).i.toNat + 2 < 4096 := by decide
theorem witness_RegistersAreStored : ({ s0 with i := 0xFF0 } : State).i.toNat + (15 : Reg).val < 4096 := by decide
theorem witness_RegistersAreLoaded : ({ s0 with i := 0xFFF } : State).i.toNat + (0 : Reg).val < 4096 := by decide
theorem witness_StoreThenLoadGivesRegistersBack : ({ s0 with i := 0xFF0 } : State).i.toNat + (15 : Reg).val < 4096 ∧
    (3 : Reg) < 4 := by decide
/-- The first value of each clause's range: `I = 4094`, `I + X = 4096`, and a two-row sprite at 4095. -/
theorem witness_BlocksFaultPastMemory : 4096 ≤ ({ s0 with i := 0xFFE } : State).i.toNat + 2 ∧
    4096 ≤ ({ s0 with i := 0xFF1 } : State).i.toNat + (15 : Reg).val ∧
    (let s := { s0 with i := 0xFFF, drf := true };
      s.drf = true ∧ 1 ≤ (2 : Fin 16).val ∧ 4096 ≤ s.i.toNat + ((2 : Fin 16).val - 1)) := by decide
theorem witness_StoreIsSeenByTheNextFetch :
    let s := { withRegs running [(0, 0x6A), (1, 0x77)] with i := 0x200 }
    1 ≤ (1 : Reg).val ∧ s.i = s.pc ∧ s.i.toNat + (1 : Reg).val < 4096 ∧ s.Running ∧
      decode [s.reg 0, s.reg 1] = .ok (.ldVxNn 10 0x77, []) :=
  ⟨by decide, by decide +kernel, by decide +kernel, ⟨by decide +kernel, by decide +kernel, by decide +kernel⟩,
    by decide +kernel⟩

/-- A sprite of one row `80` at (60, 0), drawn over a lit cell. -/
def drawable : State :=
  { withLit (withBytes (withRegs s0 [(0, 60)]) 0x300 [0x80]) [(60, 0)] with i := 0x300, drf := true }

theorem drawable_covers : drawable.Covers 0 1 1 (60, 0) :=
  ⟨0, by decide, 0, by decide, by decide +kernel, by decide +kernel⟩

theorem drawable_not_covers : ¬drawable.Covers 0 1 1 (60, 1) := by
  rintro ⟨r, hr, c, -, -, h⟩
  obtain rfl : r = 0 := by omega
  have hc : drawable.cfg.clipping = false := by decide +kernel
  rw [hc] at h
  have hy : ((drawable.reg 1).toNat % 32 + 0) % 32 = 0 := by decide +kernel
  have := h.2
  rw [hy] at this
  exact absurd this (by decide)

/-- A draw of no rows with `I` outside memory, a draw at the last address; a lit cell that is covered, one that is not. -/
theorem witness_DrawTogglesTheCoveredCells :
    (let s := { s0 with i := 0xFFFF, drf := true }; s.drf = true ∧ (0 : Fin 16).val = 0 ∧
      ¬∃ p, s.Covers 0 1 (0 : Fin 16) p ∧ cellAt s.disp p = true) ∧
    (let s := { s0 with i := 0xFFF, drf := true }; s.drf = true ∧ s.i.toNat + ((1 : Fin 16).val - 1) < 4096) ∧
    drawable.Covers 0 1 1 (60, 0) ∧ cellAt drawable.disp (60, 0) = true ∧ ¬drawable.Covers 0 1 1 (60, 1) :=
  ⟨⟨rfl, rfl, fun ⟨_, ⟨_, hr, _⟩, _⟩ => Nat.not_lt_zero _ hr⟩, by decide, drawable_covers, by decide +kernel, drawable_not_covers⟩
theorem witness_DrawWithoutFrameStalls : s0.drf = false := by decide
theorem witness_DrawTwiceRestoresTheDisplay : ∃ t, exec (.drwVxVyN 0 1 1) drawable = .next t ∧ drawable.drf = true ∧
    (t.reg 0).toNat % 64 = (drawable.reg 0).toNat % 64 ∧ (t.reg 1).toNat % 32 = (drawable.reg 1).toNat % 32 :=
  ⟨drawable.drawSprite 0 1 1, by
    have h : drawable.i.toNat + 1 ≤ memSize := by decide +kernel
    exact withBlock_of_le (s := drawable) _ (.inr h), by decide +kernel, by decide +kernel, by decide +kernel⟩
theorem witness_OnlyDisplayInstructionsTouchTheDisplay : isDisplay .ret = false ∧ isDisplay .cls = true ∧
    ∃ t, exec .cls s0 = .next t := ⟨rfl, rfl, _, rfl⟩
/-- Key 15, the last one, and index 16, the first that is none. -/
theorem witness_SkipsOnKey : ((withRegs s0 [(2, 15)]).reg 2).toNat < 16 ∧ 16 ≤ ((withRegs s0 [(2, 16)]).reg 2).toNat := by
  decide +kernel
theorem witness_WaitForKey : (s0.setKey 3 true).key[(3 : Key)] = true ∧ (∀ j : Key, j < 3 → (s0.setKey 3 true).key[j] = false) ∧
    ∀ k : Key, s0.key[k] = false := by decide +kernel
theorem witness_DrawReadyFlagProtocol : s0.init = true ∧ s0.fault = none ∧ HostEvent.keyDown 3 ≠ .frame ∧
    (∃ t, hostEvent (.keyDown 3) { s0 with drf := true } = .next t ∧ t.drf = true) ∧ isDraw .cls = false ∧
    isDraw (.drwVxVyN 0 1 1) = true ∧ ∃ t, exec (.drwVxVyN 0 1 1) s0 = .next t :=
  ⟨by decide, by decide, by decide, ⟨_, rfl, rfl⟩, rfl, rfl, ⟨_, rfl⟩⟩
/-- A timer, a register below VF, and a taken skip: the clause of each changes its element. -/
theorem witness_EachElementHasItsWriters :
    (∃ t, exec (.ldDtVx 3) (withRegs s0 [(3, 2)]) = .next t ∧ t.dt ≠ s0.dt) ∧
    (∃ t, exec (.ldVxMemI 0) (withBytes s0 0 [7]) = .next t ∧ t.reg 0 ≠ s0.reg 0) ∧
    ∃ t, exec (.sneVxNn 14 1) s0 = .next t ∧ t.pc ≠ s0.pc :=
  ⟨⟨_, rfl, by decide +kernel⟩, ⟨_, rfl, by decide +kernel⟩, ⟨_, rfl, by decide +kernel⟩⟩
theorem witness_VfWritersAreListed : ∃ t, exec (.ldVxNn 15 7) s0 = .next t ∧ t.reg 15 ≠ s0.reg 15 :=
  ⟨_, rfl, by decide +kernel⟩
theorem witness_OnlyListedInstructionsFault : ∃ f, exec .ret s0 = .fault f := ⟨_, rfl⟩
theorem witness_FaultsArePrecise : ∃ f, step (s0.withFetchWord 16 0x00EE) = .fault f := ⟨_, rfl⟩
theorem witness_StepKeepsInvariant : running.Inv ∧ (∃ t, step running = .next t) ∧
    ∃ f, step (s0.withFetchWord 16 0x00EE) = .fault f := ⟨fun _ => running_ranges, ⟨_, rfl⟩, ⟨_, rfl⟩⟩
theorem witness_SessionsKeepInvariant : running.Inv := fun _ => running_ranges
theorem witness_ResetMeetsInvariant : romFits (List.replicate 3584 0xFF) = true := by decide +kernel
theorem witness_ResetLeavesTheListedValues : (List.replicate 3584 (0xFF : Byte)).length ≤ 3584 ∧ s0.cfg = (s0.setReg 1 2).cfg :=
  ⟨by decide +kernel, rfl⟩
theorem witness_OversizedRomLeavesTheCoreUninitialized : 3584 < (List.replicate 3585 (0 : Byte)).length := by decide +kernel
theorem witness_FrameEvent : s0.init = true ∧ s0.fault = none := by decide
theorem witness_TimersCountFrames : ({ s0 with dt := 0xFF } : State).init = true ∧ ({ s0 with dt := 0xFF } : State).fault = none := by
  decide
theorem witness_KeyEvents : s0.init = true ∧ s0.fault = none ∧ (14 : Key) ≠ 15 := by decide

end Sys2Proof.Machine.Tests
end

/-! ## What an instruction can do, said once

`Effect s i t`: on the state `s` of its execute phase the instruction `i` goes on in `t`. `exec_cases` says that every
instruction does its effect or raises a fault on `s`; the facts about single elements of the state are read off `Effect`. -/

section
namespace Sys2Proof.Machine

/-- The condition of a skip instruction on `s`; `none` for an instruction that is no skip, and for a key skip whose register
names no key (R105 to R108, R181, R182). -/
def State.skipTest (s : State) : Instr → Option Bool
  | .seVxNn x nn => some (s.reg x == nn)
  | .sneVxNn x nn => some (s.reg x != nn)
  | .seVxVy x y => some (s.reg x == s.reg y)
  | .sneVxVy x y => some (s.reg x != s.reg y)
  | .skpVx x => (s.keyOf x).map s.keyDown
  | .sknpVx x => (s.keyOf x).map (!s.keyDown ·)
  | _ => none

/-- What an instruction that answers a next state has done, with the guards it passed. The value of an arithmetic result is left
open: who writes what does not depend on it. -/
inductive Effect (s : State) : Instr → State → Prop where
  | cls : Effect s .cls { s with disp := clearDisplay }
  | ret {w : Word} {ws : List Word} : s.stack = w :: ws → Effect s .ret { s with pc := w, stack := ws }
  | jp (nnn : Addr12) : Effect s (.jp nnn) (s.setPc (addressOf nnn))
  | jpV0 (nnn : Addr12) : Effect s (.jpV0Nnn nnn) (s.setPc (s.offsetTarget nnn))
  | call (nnn : Addr12) : s.stackFull = false → Effect s (.call nnn) ((s.push s.pc).setPc (addressOf nnn))
  | skip {i : Instr} {c : Bool} : s.skipTest i = some c → Effect s i (s.skipIf c)
  | reg {i : Instr} {x : Reg} (b : Byte) :
      ((∃ nn, i = .ldVxNn x nn ∨ i = .addVxNn x nn) ∨ (∃ y, i = .ldVxVy x y) ∨ i = .ldVxDt x ∨ i = .ldVxK x) →
      Effect s i (s.setReg x b)
  | regFlag {i : Instr} {x y : Reg} (b : Byte) (c : Bool) :
      (i = .orVxVy x y ∨ i = .andVxVy x y ∨ i = .xorVxVy x y ∨ i = .addVxVy x y ∨
        i = .subVxVy x y ∨ i = .subnVxVy x y ∨ i = .shrVxVy x y ∨ i = .shlVxVy x y) →
      Effect s i (s.setRegFlag x b c)
  | random (x : Reg) (nn : Byte) : Effect s (.rndVxNn x nn) (s.afterDraw.setReg x (nn &&& s.rnd))
  | loadIndex (nnn : Addr12) : Effect s (.ldINnn nnn) (s.setI (addressOf nnn))
  | glyph (x : Reg) : Effect s (.ldFVx x) (s.setI (s.glyphAddress x))
  | addIndex (x : Reg) (w : Word) (c : Bool) : Effect s (.addIVx x) ((s.setI w).setFlag c)
  | digits (x : Reg) : s.i.toNat + 3 ≤ memSize →
      Effect s (.ldBVx x) (s.setBytes s.i.toNat (decimalDigits (s.reg x)))
  | store (x : Reg) : s.i.toNat + (x.val + 1) ≤ memSize →
      Effect s (.ldMemIVx x) ((s.setBytes s.i.toNat (s.regsUpTo x)).setI (s.indexAfterBlock x))
  | load (x : Reg) : s.i.toNat + (x.val + 1) ≤ memSize →
      Effect s (.ldVxMemI x) ((s.loadRegs (x.val + 1)).setI (s.indexAfterBlock x))
  | draw (x y : Reg) (n : Fin 16) : s.drf = true → Effect s (.drwVxVyN x y n) (s.drawSprite x y n)
  | waitFrame (x y : Reg) (n : Fin 16) : s.drf = false → Effect s (.drwVxVyN x y n) s.rewind
  | waitKey (x : Reg) : (∀ k : Key, s.key[k] = false) → Effect s (.ldVxK x) s.rewind
  | delay (x : Reg) : Effect s (.ldDtVx x) { s with dt := s.reg x }
  | sound (x : Reg) : Effect s (.ldStVx x) { s with st := s.reg x }

/-! ### The operations that can fault -/

/-- A bounded block inside memory goes on, any other raises (R56). -/
theorem withBlock_cases (s : State) (base count : Nat) (go : Result) :
    ((count = 0 ∨ base + count ≤ memSize) ∧ s.withBlock base count go = go) ∨
      ∃ c info, s.withBlock base count go = raise c info s := by
  by_cases h : count = 0 ∨ base + count ≤ memSize
  · exact .inl ⟨h, withBlock_of_le go h⟩
  · obtain ⟨hcount, hbase⟩ := not_or.1 h
    exact .inr ⟨_, _, withBlock_of_gt go hcount (Nat.lt_of_not_le hbase)⟩

/-- A key skip does what its test says of the key its register names, or raises (R181, R182). -/
theorem skipOnKey_cases (x : Reg) (test : Bool → Bool) (s : State) :
    (∃ k, s.keyOf x = some k ∧ skipOnKey x test s = .next (s.skipIf (test (s.keyDown k)))) ∨
      ∃ c info, skipOnKey x test s = raise c info s := by
  unfold skipOnKey
  cases s.keyOf x with
  | some k => exact .inl ⟨k, rfl, rfl⟩
  | none => exact .inr ⟨_, _, rfl⟩

/-- No key is the first one down exactly when none is down (R183). -/
theorem firstKeyDown_eq_none {s : State} : s.firstKeyDown = none ↔ ∀ k : Key, s.key[k] = false := by
  simp [State.firstKeyDown, State.keyDown]

/-- The key `V[x]` names is the one of that number (R181). -/
theorem keyOf_eq_some {s : State} {x : Reg} {k : Key} (h : s.keyOf x = some k) : (s.reg x).toNat = k.val := by
  unfold State.keyOf at h
  split at h
  · exact congrArg Fin.val (Option.some.inj h)
  · cases h

/-- Every instruction has its effect, or raises a fault on the state it was given; none is refused (R70 step 7, R205). -/
theorem exec_cases (i : Instr) (s : State) :
    (∃ t, exec i s = .next t ∧ Effect s i t) ∨ ∃ c info, exec i s = raise c info s := by
  cases i with
  | cls => exact .inl ⟨_, rfl, .cls⟩
  | ret =>
    cases hs : s.stack with
    | nil => exact .inr ⟨.stackUnderflow, 0, by simp [exec, execRet, hs]⟩
    | cons w ws => exact .inl ⟨_, by simp [exec, execRet, hs], .ret hs⟩
  | jp nnn => exact .inl ⟨_, rfl, .jp nnn⟩
  | call nnn =>
    cases hs : s.stackFull with
    | true => exact .inr ⟨.stackOverflow, 0, by simp [exec, execCall, hs]⟩
    | false => exact .inl ⟨_, by simp [exec, execCall, hs], .call nnn hs⟩
  | seVxNn x nn => exact .inl ⟨_, rfl, .skip rfl⟩
  | sneVxNn x nn => exact .inl ⟨_, rfl, .skip rfl⟩
  | seVxVy x y => exact .inl ⟨_, rfl, .skip rfl⟩
  | ldVxNn x nn => exact .inl ⟨_, rfl, .reg nn (.inl ⟨nn, .inl rfl⟩)⟩
  | addVxNn x nn => exact .inl ⟨_, rfl, .reg _ (.inl ⟨nn, .inr rfl⟩)⟩
  | ldVxVy x y => exact .inl ⟨_, rfl, .reg _ (.inr (.inl ⟨y, rfl⟩))⟩
  | orVxVy x y => exact .inl ⟨_, rfl, .regFlag (y := y) _ _ (by simp)⟩
  | andVxVy x y => exact .inl ⟨_, rfl, .regFlag (y := y) _ _ (by simp)⟩
  | xorVxVy x y => exact .inl ⟨_, rfl, .regFlag (y := y) _ _ (by simp)⟩
  | addVxVy x y => exact .inl ⟨_, rfl, .regFlag (y := y) _ _ (by simp)⟩
  | subVxVy x y => exact .inl ⟨_, rfl, .regFlag (y := y) _ _ (by simp)⟩
  | shrVxVy x y => exact .inl ⟨_, rfl, .regFlag (y := y) _ _ (by simp)⟩
  | subnVxVy x y => exact .inl ⟨_, rfl, .regFlag (y := y) _ _ (by simp)⟩
  | shlVxVy x y => exact .inl ⟨_, rfl, .regFlag (y := y) _ _ (by simp)⟩
  | sneVxVy x y => exact .inl ⟨_, rfl, .skip rfl⟩
  | ldINnn nnn => exact .inl ⟨_, rfl, .loadIndex nnn⟩
  | jpV0Nnn nnn => exact .inl ⟨_, rfl, .jpV0 nnn⟩
  | rndVxNn x nn => exact .inl ⟨_, rfl, .random x nn⟩
  | drwVxVyN x y n =>
    cases hd : s.drf with
    | false => exact .inl ⟨_, by simp [exec, execDrwVxVyN, hd], .waitFrame x y n hd⟩
    | true =>
      have he : exec (.drwVxVyN x y n) s = s.withBlock s.i.toNat n (.next (s.drawSprite x y n)) := by
        simp [exec, execDrwVxVyN, hd]
      rcases withBlock_cases s s.i.toNat n (.next (s.drawSprite x y n)) with ⟨-, h⟩ | ⟨c, info, h⟩
      · exact .inl ⟨_, he.trans h, .draw x y n hd⟩
      · exact .inr ⟨c, info, he.trans h⟩
  | skpVx x =>
    rcases skipOnKey_cases x id s with ⟨k, hk, h⟩ | h
    · exact .inl ⟨_, h, .skip (by simp [State.skipTest, hk])⟩
    · exact .inr h
  | sknpVx x =>
    rcases skipOnKey_cases x not s with ⟨k, hk, h⟩ | h
    · exact .inl ⟨_, h, .skip (by simp [State.skipTest, hk])⟩
    · exact .inr h
  | ldVxDt x => exact .inl ⟨_, rfl, .reg _ (.inr (.inr (.inl rfl)))⟩
  | ldVxK x =>
    cases hk : s.firstKeyDown with
    | some k => exact .inl ⟨_, by simp [exec, execLdVxK, hk], .reg (BitVec.ofNat 8 k) (.inr (.inr (.inr rfl)))⟩
    | none => exact .inl ⟨_, by simp [exec, execLdVxK, hk], .waitKey x (firstKeyDown_eq_none.1 hk)⟩
  | ldDtVx x => exact .inl ⟨_, rfl, .delay x⟩
  | ldStVx x => exact .inl ⟨_, rfl, .sound x⟩
  | addIVx x => exact .inl ⟨_, rfl, .addIndex x _ _⟩
  | ldFVx x => exact .inl ⟨_, rfl, .glyph x⟩
  | ldBVx x =>
    rcases withBlock_cases s s.i.toNat 3 _ with ⟨hb, h⟩ | h
    · exact .inl ⟨_, h, .digits x (by simpa using hb)⟩
    · exact .inr h
  | ldMemIVx x =>
    rcases withBlock_cases s s.i.toNat (x.val + 1) _ with ⟨hb, h⟩ | h
    · exact .inl ⟨_, h, .store x (by simpa using hb)⟩
    · exact .inr h
  | ldVxMemI x =>
    rcases withBlock_cases s s.i.toNat (x.val + 1) _ with ⟨hb, h⟩ | h
    · exact .inl ⟨_, h, .load x (by simpa using hb)⟩
    · exact .inr h

/-- The state an instruction goes on in is its effect. -/
theorem exec_next {i : Instr} {s t : State} (h : exec i s = .next t) : Effect s i t := by
  rcases exec_cases i s with ⟨u, hu, he⟩ | ⟨c, info, hr⟩
  · obtain rfl : u = t := Host.Outcome.next.inj (hu.symm.trans h)
    exact he
  · exact absurd (hr.symm.trans h) (raise_ne_next _ _ _ _)

/-- A fault of an instruction is raised on the state it was given, before any write (R205, D8). -/
theorem exec_fault {i : Instr} {s : State} {f : Fault} (h : exec i s = .fault f) : ∃ c info, raise c info s = .fault f := by
  rcases exec_cases i s with ⟨u, hu, -⟩ | ⟨c, info, hr⟩
  · cases hu.symm.trans h
  · exact ⟨c, info, hr.symm.trans h⟩

/-- No instruction is refused (R200). -/
theorem exec_ne_refused (i : Instr) (s : State) (r : Refusal) : exec i s ≠ .refused r := by
  rcases exec_cases i s with ⟨u, hu, -⟩ | ⟨c, info, hr⟩
  · simp [hu]
  · simp [hr]

end Sys2Proof.Machine
end

/-! ## The invariant of R30

Each range of `State.Ranges` is read off `Effect`, for a state of the execute phase whose `pc` is the advanced `pc` of a fetch
inside memory. -/

section
namespace Sys2Proof.Machine

/-! ### Which fields the ranges look at -/

/-- The ranges look at `pc`, `PEND`, the stack, memory and the parameters only. -/
theorem State.Ranges.of_fields_eq {s t : State} (hs : s.Ranges) (hpc : t.pc = s.pc) (hpend : t.pend = s.pend)
    (hstack : t.stack = s.stack) (hmem : t.mem = s.mem) (hcfg : t.cfg = s.cfg) : t.Ranges where
  pend := hpend ▸ hs.pend
  pc := hpc ▸ hs.pc
  stack := hstack ▸ hs.stack
  depth := by rw [hcfg, hstack]; exact hs.depth
  mem := by unfold State.MemWf; rw [hmem, hcfg]; exact hs.mem

/-- A core that is not initialized meets the invariant: R30 says nothing of it (R230). -/
theorem State.inv_of_init_false {s : State} (h : s.init = false) : s.Inv := fun hi => by simp [h] at hi

/-! ### What each effect does to the fields the ranges look at -/

theorem addressOf_toNat_lt (nnn : Addr12) : (addressOf nnn).toNat < 0x1000 := by
  rw [addressOf, BitVec.toNat_setWidth_of_le (by decide)]
  exact nnn.isLt

/-- R104: at most `0xFFF + 0xFF`. -/
theorem offsetTarget_toNat_le (s : State) (nnn : Addr12) : (s.offsetTarget nnn).toNat ≤ 0x10FE := by
  have hn := nnn.isLt
  have hv := (s.reg 0).isLt
  rw [State.offsetTarget, BitVec.toNat_ofNat]
  omega

/-- A finite stack that is not full has room (R204). -/
theorem stack_length_lt_of_not_full {s : State} (h : s.stackFull = false) (n : Nat) (hn : s.cfg.stackDepth = some n) :
    s.stack.length < n := by
  simpa [State.stackFull, hn] using h

/-- `PEND`, `INIT`, `FAULT`, the keys and the parameters are written by no instruction (R17, R20 to R23, D31). -/
theorem Effect.frame {s t : State} {i : Instr} (h : Effect s i t) :
    t.key = s.key ∧ t.pend = s.pend ∧ t.init = s.init ∧ t.fault = s.fault ∧ t.cfg = s.cfg := by
  cases h <;> simp

/-- The stack is popped by a return, pushed by a call with room for it, and else as it was (R14). -/
theorem Effect.stack_cases {s t : State} {i : Instr} (h : Effect s i t) :
    t.stack = s.stack ∨ (i = .ret ∧ s.stack = t.pc :: t.stack) ∨
      ((∃ nnn, i = .call nnn) ∧ s.stackFull = false ∧ t.stack = s.pc :: s.stack) := by
  cases h with
  | ret hs => exact .inr (.inl ⟨rfl, hs⟩)
  | call nnn hs => exact .inr (.inr ⟨⟨nnn, rfl⟩, hs, rfl⟩)
  | _ => exact .inl (by simp)

/-- From the advanced `pc` of a fetch inside memory, the next `pc` is in its range (R30 (b)). -/
theorem Effect.pc_le {s t : State} {i : Instr} (h : Effect s i t) (hs : s.Ranges) (hlow : 2 ≤ s.pc.toNat)
    (hhigh : s.pc.toNat ≤ 4096) : t.pc.toNat ≤ 0x10FE := by
  cases h with
  | ret hstack => exact (hs.stack _ (by simp [hstack])).trans (by decide)
  | jp nnn => exact (addressOf_toNat_lt nnn).le.trans (by decide)
  | call nnn => exact (addressOf_toNat_lt nnn).le.trans (by decide)
  | jpV0 nnn => exact offsetTarget_toNat_le s nnn
  | skip => rw [State.skipIf_pc]; split <;> bv_omega
  | waitFrame => rw [State.rewind_pc]; bv_omega
  | waitKey => rw [State.rewind_pc]; bv_omega
  | _ => simpa using hs.pc

/-- Every return address is an advanced `pc` (R30 (c)). -/
theorem Effect.stack_le {s t : State} {i : Instr} (h : Effect s i t) (hs : s.Ranges) (hhigh : s.pc.toNat ≤ 4096) :
    ∀ w ∈ t.stack, w.toNat ≤ 0x1001 := by
  rcases h.stack_cases with heq | ⟨-, hpop⟩ | ⟨-, -, hpush⟩
  · exact heq ▸ hs.stack
  · exact fun w hw => hs.stack w (hpop ▸ List.mem_cons_of_mem _ hw)
  · rw [hpush]
    exact List.forall_mem_cons.2 ⟨hhigh.trans (by decide), hs.stack⟩

/-- A stack of finite depth never holds more (R204). -/
theorem Effect.depth_le {s t : State} {i : Instr} (h : Effect s i t) (hs : s.Ranges) (n : Nat)
    (hn : s.cfg.stackDepth = some n) : t.stack.length ≤ n := by
  have hle := hs.depth n hn
  rcases h.stack_cases with heq | ⟨-, hpop⟩ | ⟨-, hroom, hpush⟩
  · rwa [heq]
  · rw [hpop, List.length_cons] at hle
    exact Nat.le_of_succ_le hle
  · rw [hpush]
    exact stack_length_lt_of_not_full hroom n hn

/-- The two stores write inside memory, and nothing else writes it (R46, R56). -/
theorem Effect.memWf {s t : State} {i : Instr} (h : Effect s i t) (hs : s.MemWf) : t.MemWf := by
  cases h with
  | digits x hb => simpa [State.MemWf] using State.setBytes_wf hs hb
  | store x hb =>
    have hlen : (s.regsUpTo x).length = x.val + 1 := by simp [State.regsUpTo]
    simpa [State.MemWf] using State.setBytes_wf hs (hlen ▸ hb)
  | _ => simpa [State.MemWf] using hs

/-- The execute phase keeps the ranges. -/
theorem Effect.ranges {s t : State} {i : Instr} (h : Effect s i t) (hs : s.Ranges) (hlow : 2 ≤ s.pc.toNat)
    (hhigh : s.pc.toNat ≤ 4096) : t.Ranges := by
  obtain ⟨-, hpend, -, -, hcfg⟩ := h.frame
  exact {
    pend := hpend ▸ hs.pend
    pc := h.pc_le hs hlow hhigh
    stack := h.stack_le hs hhigh
    depth := hcfg ▸ h.depth_le hs
    mem := h.memWf hs.mem }

/-! ### The tick -/

/-- An instruction is fetched from inside memory only (R203 (a), D36). -/
theorem pc_lt_of_fetch_ok {s : State} {i : Instr} (h : s.fetch = .ok i) : s.pc.toNat + 1 < 4096 := by
  unfold State.fetch at h
  split at h
  · cases h
  · rename_i hin
    exact (firstOutOfRange_eq_none.1 hin).resolve_left (by decide)

theorem advance_pc_toNat {s : State} (h : s.pc.toNat + 1 < 4096) : s.advance.pc.toNat = s.pc.toNat + 2 := by
  rw [State.advance_pc]
  bv_omega

/-- The advance of a fetch inside memory stays in the ranges. -/
theorem State.Ranges.advance {s : State} (hs : s.Ranges) (h : s.pc.toNat + 1 < 4096) : s.advance.Ranges where
  pend := hs.pend
  pc := by rw [advance_pc_toNat h]; omega
  stack := hs.stack
  depth := hs.depth
  mem := hs.mem

/-- A fault of a tick, of the fetch or of the instruction, leaves the state before the tick with the latch set (R205, D8). -/
theorem step_fault_after {s : State} {f : Fault} (h : step s = .fault f) :
    s.Running ∧ ∃ info, f.after = { s with fault := some ⟨f.cause, s.pc, info⟩ } := by
  obtain ⟨hrun, hcases⟩ := step_fault_cases h
  have hraise : ∃ c info, raise c info s.advance = .fault f := by
    rcases hcases with ⟨c, info, -, hr⟩ | ⟨i, -, he⟩
    · exact ⟨c, info, hr⟩
    · exact exec_fault he
  obtain ⟨c, info, hr⟩ := hraise
  obtain ⟨hcause, hafter⟩ := raise_after hr
  exact ⟨hrun, info, by rw [hafter, hcause, State.advance_thisPc]; rfl⟩

/-- A tick that answers a next state keeps the invariant: it is halted, or its fetch was inside memory. -/
theorem step_next_inv {s t : State} (hs : s.Inv) (h : step s = .next t) : t.Inv := by
  rcases step_next_cases h with ⟨-, rfl⟩ | ⟨⟨hinit, -, -⟩, i, hfetch, hexec⟩
  · exact hs
  · have hpc := pc_lt_of_fetch_ok hfetch
    have hadv := advance_pc_toNat hpc
    exact fun _ => (exec_next hexec).ranges ((hs hinit).advance hpc) (by omega) (by omega)

/-- A tick that faults keeps the invariant: it changes the latch only. -/
theorem step_fault_inv {s : State} {f : Fault} (hs : s.Inv) (h : step s = .fault f) : f.after.Inv := by
  obtain ⟨⟨hinit, -, -⟩, info, hafter⟩ := step_fault_after h
  rw [hafter]
  exact fun _ => (hs hinit).of_fields_eq rfl rfl rfl rfl rfl

/-- Settles O50: the execute phase keeps each range (`Effect.ranges`), a fault changes the latch only. -/
theorem stepKeepsInvariant : Obligations.StepKeepsInvariant :=
  fun _ hs => ⟨fun _ => step_next_inv hs, fun _ => step_fault_inv hs⟩

/-! ### Reset and power-on -/

/-- The ranges hold after every accepted Reset (R29, R30). -/
theorem resetWith_ranges (s : State) {rom : List Byte} (h : rom.length ≤ maxRom) : (s.resetWith rom).Ranges where
  pend := ⟨Nat.le_add_right _ _, Nat.add_le_add_left h progBase⟩
  pc := show (0x200 : Word).toNat ≤ 0x10FE by decide
  stack := List.forall_mem_nil _
  depth _ _ := Nat.zero_le _
  mem := by
    have hempty : ({ State.reset with cfg := s.cfg } : State).MemWf := ⟨List.Pairwise.nil, List.forall_mem_nil _⟩
    have hfits : progBase + rom.length ≤ memSize := Nat.add_le_add_left h progBase
    exact State.setBytes_wf hempty hfits

/-- `State.reset` is what a Reset with the empty ROM makes of it (log 4). -/
theorem reset_resetWith_nil : State.reset.resetWith [] = State.reset := rfl

theorem romFits_iff {rom : List Byte} : romFits rom = true ↔ rom.length ≤ maxRom := decide_eq_true_iff

/-- Settles O52: `State.reset` is the Reset with the empty ROM, and a core at power-on is not initialized. -/
theorem resetMeetsInvariant : Obligations.ResetMeetsInvariant :=
  ⟨reset_resetWith_nil ▸ resetWith_ranges State.reset (Nat.zero_le _),
    fun s _ h => resetWith_ranges s (romFits_iff.1 h),
    fun _ => State.inv_of_init_false rfl⟩

/-! ### Sessions -/

theorem State.Inv.withFeed {s : State} (hs : s.Inv) (feed : List Byte) : (s.withFeed feed).Inv :=
  fun hinit => (hs hinit).of_fields_eq rfl rfl rfl rfl rfl

@[simp] theorem Fault.after_mapAfter (g : State → State) (f : Fault) : (f.mapAfter g).after = g f.after := by
  cases f <;> rfl

/-- Why a tick is refused: the core is uninitialized, or else it is faulted (R206, R220). -/
theorem step_refused {s : State} {r : Refusal} (h : step s = .refused r) :
    (s.init = false ∧ r = .notInitialized) ∨ (s.init = true ∧ s.fault ≠ none ∧ r = .alreadyFaulted) := by
  by_cases hrun : s.Running
  · rw [step_of_running hrun] at h
    split at h
    · exact absurd h (raise_ne_refused _ _ _ _)
    · exact absurd h (exec_ne_refused _ _ _)
  · cases hb : s.beforeFetch with
    | none => exact absurd (beforeFetch_eq_none.1 hb) hrun
    | some u =>
      obtain rfl : u = .refused r := by simpa [step, hb] using h
      unfold State.beforeFetch at hb
      split_ifs at hb with hinit hfault hhalt
      · exact .inl ⟨hinit, by simpa [eq_comm] using hb⟩
      · exact .inr ⟨by simpa using hinit, Option.isSome_iff_ne_none.1 hfault, by simpa [eq_comm] using hb⟩
      · simp at hb

/-- A refused tick leaves the session in the state it was in (R206). -/
theorem refusal_after_of_step {s : State} {r : Refusal} (h : step s = .refused r) (u : State) : r.after u = u := by
  rcases step_refused h with ⟨-, rfl⟩ | ⟨-, -, rfl⟩ <;> rfl

/-- A Tick of the host keeps the invariant, whatever it answers: the byte it supplies is none of the ranges. -/
theorem tickWith_inv {s : State} (hs : s.Inv) (rnd : Byte) : (sessionAfter s (tickWith rnd s)).Inv := by
  have hfeed := hs.withFeed [rnd]
  unfold tickWith
  cases h : step (s.withFeed [rnd]) with
  | next t => exact (step_next_inv hfeed h).withFeed s.rndFeed
  | fault f =>
    show (f.mapAfter _).after.Inv
    rw [Fault.after_mapAfter]
    exact (step_fault_inv hfeed h).withFeed s.rndFeed
  | refused r =>
    show (r.after s).Inv
    rwa [refusal_after_of_step h]

/-- A Reset makes the ranges true, or leaves an uninitialized core (R231, R232). -/
theorem resetEvent_inv (s : State) (rom : List Byte) : (sessionAfter s (resetEvent rom s)).Inv := by
  unfold resetEvent
  split
  · rename_i hfits
    exact fun _ => resetWith_ranges s (romFits_iff.1 hfits)
  · exact State.inv_of_init_false rfl

/-- A Frame or key event leads to `t`, or is refused and changes nothing (R230). -/
theorem onInitialized_inv {s t : State} (hs : s.Inv) (ht : t.Inv) : (sessionAfter s (onInitialized s t)).Inv := by
  unfold onInitialized
  split
  · exact ht
  · exact hs

theorem State.Inv.frame {s : State} (hs : s.Inv) : s.frame.Inv :=
  fun hinit => (hs hinit).of_fields_eq rfl rfl rfl rfl rfl

theorem State.Inv.setKey {s : State} (hs : s.Inv) (k : Key) (down : Bool) : (s.setKey k down).Inv :=
  fun hinit => (hs hinit).of_fields_eq rfl rfl rfl rfl rfl

/-- Every event of the host keeps the invariant (R235). -/
theorem sessionStep_inv {s : State} (hs : s.Inv) (e : HostEvent) : (sessionStep s e).Inv := by
  cases e with
  | reset rom => exact resetEvent_inv s rom
  | tick rnd => exact tickWith_inv hs rnd
  | frame => exact onInitialized_inv hs hs.frame
  | keyDown k => exact onInitialized_inv hs (hs.setKey k true)
  | keyUp k => exact onInitialized_inv hs (hs.setKey k false)

/-- Settles O51, by induction on the list of events. -/
theorem sessionsKeepInvariant : Obligations.SessionsKeepInvariant := by
  intro s es hs
  induction es generalizing s with
  | nil => exact hs
  | cons e es ih => exact ih (sessionStep s e) (sessionStep_inv hs e)

end Sys2Proof.Machine
end

/-! ## Who writes what

Each clause of R10 to R26 is one lemma about `Effect`: the effects that write the element are named, no other changes it. -/

section
namespace Sys2Proof.Machine

/-- A taken skip is one of the six skips with its condition true (R105 to R108, R181, R182). -/
theorem skipTest_true {s : State} {i : Instr} (h : s.skipTest i = some true) :
    (∃ x nn, (i = .seVxNn x nn ∧ s.reg x = nn) ∨ (i = .sneVxNn x nn ∧ s.reg x ≠ nn)) ∨
    (∃ x y, (i = .seVxVy x y ∧ s.reg x = s.reg y) ∨ (i = .sneVxVy x y ∧ s.reg x ≠ s.reg y)) ∨
    (∃ (x : Reg) (k : Key), (s.reg x).toNat = k.val ∧
      ((i = .skpVx x ∧ s.key[k] = true) ∨ (i = .sknpVx x ∧ s.key[k] = false))) := by
  cases i with
  | seVxNn x nn => exact .inl ⟨x, nn, .inl ⟨rfl, by simpa [State.skipTest] using h⟩⟩
  | sneVxNn x nn => exact .inl ⟨x, nn, .inr ⟨rfl, by simpa [State.skipTest] using h⟩⟩
  | seVxVy x y => exact .inr (.inl ⟨x, y, .inl ⟨rfl, by simpa [State.skipTest] using h⟩⟩)
  | sneVxVy x y => exact .inr (.inl ⟨x, y, .inr ⟨rfl, by simpa [State.skipTest] using h⟩⟩)
  | skpVx x =>
    obtain ⟨k, hk, hdown⟩ := Option.map_eq_some_iff.1 h
    exact .inr (.inr ⟨x, k, keyOf_eq_some hk, .inl ⟨rfl, hdown⟩⟩)
  | sknpVx x =>
    obtain ⟨k, hk, hup⟩ := Option.map_eq_some_iff.1 h
    exact .inr (.inr ⟨x, k, keyOf_eq_some hk, .inr ⟨rfl, by simpa [State.keyDown] using hup⟩⟩)
  | _ => cases h

/-- R10, R11, R26: a register differs only after an instruction that names it, or, as VF, one that writes the flag. -/
theorem Effect.reg_writers {s t : State} {i : Instr} (h : Effect s i t) (r : Reg) (hne : t.reg r ≠ s.reg r) :
    (∃ nn, i = .ldVxNn r nn ∨ i = .addVxNn r nn ∨ i = .rndVxNn r nn) ∨
    (∃ x y, (r = x ∨ r = 15) ∧ (i = .orVxVy x y ∨ i = .andVxVy x y ∨ i = .xorVxVy x y ∨ i = .addVxVy x y ∨
      i = .subVxVy x y ∨ i = .subnVxVy x y ∨ i = .shrVxVy x y ∨ i = .shlVxVy x y)) ∨
    (∃ y, i = .ldVxVy r y) ∨ i = .ldVxDt r ∨ i = .ldVxK r ∨ (∃ x, r ≤ x ∧ i = .ldVxMemI x) ∨
    (r = 15 ∧ ((∃ x, i = .addIVx x) ∨ ∃ x y n, i = .drwVxVyN x y n ∧ s.drf = true)) := by
  cases h with
  | reg b hi =>
    obtain rfl := State.eq_of_reg_setReg_ne hne
    rcases hi with ⟨nn, rfl | rfl⟩ | ⟨y, rfl⟩ | rfl | rfl <;> simp
  | random x nn =>
    obtain rfl : r = x := State.eq_of_reg_setReg_ne (s := s.afterDraw) (by simpa using hne)
    exact .inl ⟨nn, .inr (.inr rfl)⟩
  | regFlag b c hi =>
    have hr := State.eq_of_reg_setRegFlag_ne hne
    exact .inr (.inl ⟨_, _, hr, by tauto⟩)
  | load x =>
    have hr : r.val < x.val + 1 := by
      by_contra hge
      exact hne (by simp [State.reg_loadRegs, hge])
    simpa using Fin.le_def.2 (Nat.le_of_lt_succ hr)
  | addIndex x w c =>
    have hr : r = 15 := by
      by_contra hf
      exact hne (by simp [show r ≠ Reg.f from hf])
    simpa using hr
  | draw x y n hd =>
    have hr : r = 15 := by
      by_contra hf
      exact hne (State.reg_drawSprite hf s x y n)
    simpa using And.intro hr hd
  | _ => exact absurd (by simp [State.reg]) hne

/-- R71: beside the advance, `pc` is changed by the jumps, the call, the return, a taken skip and the two busy-waits. -/
theorem Effect.pc_writers {s t : State} {i : Instr} (h : Effect s i t) (hne : t.pc ≠ s.pc) :
    (∃ nnn, i = .jp nnn ∨ i = .call nnn ∨ i = .jpV0Nnn nnn) ∨ i = .ret ∨
    (∃ x nn, (i = .seVxNn x nn ∧ s.reg x = nn) ∨ (i = .sneVxNn x nn ∧ s.reg x ≠ nn)) ∨
    (∃ x y, (i = .seVxVy x y ∧ s.reg x = s.reg y) ∨ (i = .sneVxVy x y ∧ s.reg x ≠ s.reg y)) ∨
    (∃ (x : Reg) (k : Key), (s.reg x).toNat = k.val ∧
      ((i = .skpVx x ∧ s.key[k] = true) ∨ (i = .sknpVx x ∧ s.key[k] = false))) ∨
    (∃ x, i = .ldVxK x ∧ ∀ k : Key, s.key[k] = false) ∨ (∃ x y n, i = .drwVxVyN x y n ∧ s.drf = false) := by
  cases h with
  | jp => simp
  | call => simp
  | jpV0 => simp
  | ret => simp
  | @skip _ c htest =>
    cases c with
    | false => exact absurd rfl hne
    | true => exact .inr (.inr ((skipTest_true htest).imp_right (Or.imp_right Or.inl)))
  | waitKey x hk => simpa using hk
  | waitFrame x y n hd => simpa using hd
  | _ => exact absurd (by simp) hne

/-- R46: memory is written by `FX33` and `FX55`. -/
theorem Effect.mem_writers {s t : State} {i : Instr} (h : Effect s i t) (hne : ¬SameBytes s t) :
    ∃ x, i = .ldBVx x ∨ i = .ldMemIVx x := by
  cases h with
  | digits x => exact ⟨x, .inl rfl⟩
  | store x => exact ⟨x, .inr rfl⟩
  | _ => exact absurd (fun a => by simp [State.byteAt]) hne

/-- R14: the stack is written by `00EE` and `2NNN`. -/
theorem Effect.stack_writers {s t : State} {i : Instr} (h : Effect s i t) (hne : t.stack ≠ s.stack) :
    i = .ret ∨ ∃ nnn, i = .call nnn := by
  rcases h.stack_cases with heq | ⟨hret, -⟩ | ⟨hcall, -, -⟩
  · exact absurd heq hne
  · exact .inl hret
  · exact .inr hcall

/-- R12: `I` is written by `ANNN`, `FX1E`, `FX29`, and by the block moves under `cfg.store_load_increment`. -/
theorem Effect.i_writers {s t : State} {i : Instr} (h : Effect s i t) (hne : t.i ≠ s.i) :
    (∃ nnn, i = .ldINnn nnn) ∨ ∃ x, i = .addIVx x ∨ i = .ldFVx x ∨
      (s.cfg.storeLoadIncrement = true ∧ (i = .ldMemIVx x ∨ i = .ldVxMemI x)) := by
  have hblock (x : Reg) (hx : s.indexAfterBlock x ≠ s.i) : s.cfg.storeLoadIncrement = true := by
    by_contra hinc
    exact hx (by simp [State.indexAfterBlock, hinc])
  cases h with
  | loadIndex nnn => exact .inl ⟨nnn, rfl⟩
  | addIndex x => exact .inr ⟨x, .inl rfl⟩
  | glyph x => exact .inr ⟨x, .inr (.inl rfl)⟩
  | store x => exact .inr ⟨x, .inr (.inr ⟨hblock x hne, .inl rfl⟩)⟩
  | load x => exact .inr ⟨x, .inr (.inr ⟨hblock x hne, .inr rfl⟩)⟩
  | _ => exact absurd (by simp) hne

/-- R16: the display is written by `00E0` and by a draw that executes. -/
theorem Effect.disp_writers {s t : State} {i : Instr} (h : Effect s i t) (hne : t.disp ≠ s.disp) :
    i = .cls ∨ ∃ x y n, i = .drwVxVyN x y n ∧ s.drf = true := by
  cases h with
  | cls => exact .inl rfl
  | draw x y n hd => exact .inr ⟨x, y, n, rfl, hd⟩
  | _ => exact absurd (by simp) hne

/-- R18: `DT` is written by `FX15`. -/
theorem Effect.dt_writers {s t : State} {i : Instr} (h : Effect s i t) (hne : t.dt ≠ s.dt) : ∃ x, i = .ldDtVx x := by
  cases h with
  | delay x => exact ⟨x, rfl⟩
  | _ => exact absurd (by simp) hne

/-- R18: `ST` is written by `FX18`. -/
theorem Effect.st_writers {s t : State} {i : Instr} (h : Effect s i t) (hne : t.st ≠ s.st) : ∃ x, i = .ldStVx x := by
  cases h with
  | sound x => exact ⟨x, rfl⟩
  | _ => exact absurd (by simp) hne

theorem isDraw_iff {i : Instr} : isDraw i = true ↔ ∃ x y n, i = .drwVxVyN x y n := by
  cases i <;> simp [isDraw]

/-- A skip is no draw. -/
theorem isDraw_of_skipTest {s : State} {i : Instr} {c : Bool} (h : s.skipTest i = some c) : isDraw i = false := by
  cases i with
  | drwVxVyN => cases h
  | _ => rfl

/-- R19, R163: `DXYN` goes on with `DRF` clear, having cleared it or having found it so; no other instruction changes it. -/
theorem Effect.drf_eq {s t : State} {i : Instr} (h : Effect s i t) : t.drf = (s.drf && !isDraw i) := by
  cases h with
  | draw => simp [isDraw]
  | waitFrame x y n hd => simp [hd]
  | skip htest => simp [isDraw_of_skipTest htest]
  | reg b hi => rcases hi with ⟨nn, rfl | rfl⟩ | ⟨y, rfl⟩ | rfl | rfl <;> simp [isDraw]
  | regFlag b c hi => rcases hi with rfl | rfl | rfl | rfl | rfl | rfl | rfl | rfl <;> simp [isDraw]
  | _ => simp [isDraw]

/-- R19: `DRF` is written by `DXYN`. -/
theorem Effect.drf_writers {s t : State} {i : Instr} (h : Effect s i t) (hne : t.drf ≠ s.drf) :
    ∃ x y n, i = .drwVxVyN x y n := by
  cases hi : isDraw i with
  | true => exact isDraw_iff.1 hi
  | false => exact absurd (by simp [h.drf_eq, hi]) hne

/-- The model's own two fields are written by `CXNN` (log 8). -/
theorem Effect.draw_fields_writers {s t : State} {i : Instr} (h : Effect s i t)
    (hne : t.rndFeed ≠ s.rndFeed ∨ t.draws ≠ s.draws) : ∃ x nn, i = .rndVxNn x nn := by
  cases h with
  | random x nn => exact ⟨x, nn, rfl⟩
  | _ => exact absurd hne (by simp)

/-- Settles O46: one clause, one lemma about `Effect`. -/
theorem eachElementHasItsWriters : Obligations.EachElementHasItsWriters := by
  intro i s t hexec
  have h := exec_next hexec
  exact ⟨h.reg_writers, h.pc_writers, h.mem_writers, h.stack_writers, h.i_writers, h.disp_writers, h.dt_writers,
    h.st_writers, h.drf_writers, h.draw_fields_writers, h.frame⟩

/-- Settles O47: the registers' clause of O46 for VF; `FX65` reaches VF only with `X = 0xF`. -/
theorem vfWritersAreListed : Obligations.VfWritersAreListed := by
  intro i s t hexec hne
  rcases (exec_next hexec).reg_writers 15 hne with
    hnn | ⟨x, y, -, hi⟩ | hmove | hdt | hk | ⟨x, hx, rfl⟩ | ⟨-, ⟨x, rfl⟩ | ⟨x, y, n, rfl, hd⟩⟩
  · exact .inr (.inr (.inl hnn))
  · exact .inl ⟨x, y, by tauto⟩
  · exact .inr (.inr (.inr (.inl hmove)))
  · simp [hdt]
  · simp [hk]
  · obtain rfl : x = 15 := le_antisymm (Fin.le_last x) hx
    simp
  · simp
  · simp [hd]

end Sys2Proof.Machine
end

/-! ## Halted ticks, the call stack, Reset -/

section
namespace Sys2Proof.Machine

/-- Settles O8, by induction on the number of ticks: each one answers the same good end (`step_of_goodEnd`). -/
theorem haltedTicksChangeNothing : Obligations.HaltedTicksChangeNothing := by
  intro s n hs
  induction n with
  | zero => rfl
  | succ n ih =>
    have hstep : Sys2Proof.core.step s = .next s := step_of_goodEnd hs
    simp only [Host.Core.run, hstep]
    exact ih

/-- A call that goes on has pushed the advanced `pc` (R103). -/
theorem stack_of_exec_call {nnn : Addr12} {s t : State} (h : exec (.call nnn) s = .next t) : t.stack = s.pc :: s.stack := by
  cases exec_next h with
  | call => rfl
  | skip hskip => cases hskip
  | reg _ hi => simp at hi
  | regFlag _ _ hi => simp at hi

/-- A return on a stack with an entry goes on at that entry (R101). -/
theorem exec_ret_of_stack {s : State} {w : Word} {ws : List Word} (h : s.stack = w :: ws) :
    exec .ret s = .next { s with pc := w, stack := ws } := by
  simp [exec, execRet, h]

/-- Settles O15: the return pops what the call pushed. -/
theorem callThenReturnComesBack : Obligations.CallThenReturnComesBack :=
  fun _ _ _ _ hcall hstack => ⟨_, exec_ret_of_stack (hstack.trans (stack_of_exec_call hcall)), rfl, rfl⟩

/-- The bytes after a Reset: the ROM from `0x200`, and the background of R29 elsewhere. -/
theorem byteAt_resetWith (s : State) (rom : List Byte) (a : Nat) :
    (s.resetWith rom).byteAt a =
      if progBase ≤ a then (rom[a - progBase]?).getD (resetByte s.cfg.font a) else resetByte s.cfg.font a := by
  have hblock : (s.resetWith rom).byteAt a = ({ State.reset with cfg := s.cfg }.setBytes progBase rom).byteAt a := by
    simp [State.byteAt, State.resetWith]
  rw [hblock, State.byteAt_setBytes]
  rfl

/-- Outside the 80 bytes of the font the background is 0 (R29, D25). -/
theorem resetByte_eq_zero (font : Font) {a : Nat} (h : a < 0x50 ∨ 0xA0 ≤ a) : resetByte font a = 0 :=
  dif_neg (by unfold fontBase; omega)

/-- The background of the font's bytes is the font (R28). -/
theorem resetByte_font (font : Font) {k : Nat} (h : k < 80) : resetByte font (0x50 + k) = font[k] := by
  have hend : 80 + k < 160 := by omega
  simp [resetByte, hend]

/-- The ROM stands at `0x200` (R231). -/
theorem byteAt_resetWith_rom (s : State) (rom : List Byte) {k : Nat} (h : k < rom.length) :
    (s.resetWith rom).byteAt (0x200 + k) = rom[k] := by
  simp [byteAt_resetWith, h]

/-- No ROM reaches below `0x200` (R231). -/
theorem byteAt_resetWith_low (s : State) (rom : List Byte) {a : Nat} (h : a < 0x200) :
    (s.resetWith rom).byteAt a = resetByte s.cfg.font a := by
  simp [byteAt_resetWith, h]

/-- Past the ROM the background is left (R29). -/
theorem byteAt_resetWith_high (s : State) (rom : List Byte) {a : Nat} (h : 0x200 + rom.length ≤ a) :
    (s.resetWith rom).byteAt a = resetByte s.cfg.font a := by
  have hnone : rom[a - 0x200]? = none := List.getElem?_eq_none (by omega)
  simp [byteAt_resetWith, hnone]

/-- Reset looks at nothing of the state before but the parameters, and keeps the model's own fields (R233, log 26). -/
theorem resetWith_of_cfg_eq {s s' : State} (h : s'.cfg = s.cfg) (rom : List Byte) :
    s'.resetWith rom = { s.resetWith rom with rndFeed := s'.rndFeed, draws := s'.draws } := by
  simp [State.resetWith, h]

theorem hostEvent_reset_of_fits {rom : List Byte} (h : rom.length ≤ maxRom) (s : State) :
    hostEvent (.reset rom) s = .next (s.resetWith rom) := by
  simp [hostEvent, resetEvent, romFits_iff.2 h]

/-- Settles O53: the state is `resetWith`, its bytes are the ROM over the background (`byteAt_resetWith`). -/
theorem resetLeavesTheListedValues : Obligations.ResetLeavesTheListedValues := by
  intro rom s hrom
  refine ⟨s.resetWith rom, hostEvent_reset_of_fits hrom s, ?regs, rfl, rfl, rfl, fun k h => byteAt_resetWith_rom s rom h,
    ?font, ?zero, ?cells, rfl, rfl, rfl, rfl, rfl, rfl, ?keys, rfl, ?forgets⟩
  case regs => intro r; simp [State.reg, State.resetWith, State.reset]
  case font => intro k h; rw [byteAt_resetWith_low s rom (by omega), resetByte_font _ h]
  case zero =>
    rintro a (h | ⟨hfont, h⟩ | h)
    · rw [byteAt_resetWith_low s rom (by omega), resetByte_eq_zero _ (.inl h)]
    · rw [byteAt_resetWith_low s rom h, resetByte_eq_zero _ (.inr hfont)]
    · rw [byteAt_resetWith_high s rom h, resetByte_eq_zero _ (.inr (by omega))]
  case cells => intro p; simp [cellAt, State.resetWith, State.reset]
  case keys => intro k; simp [State.resetWith, State.reset]
  case forgets => intro s' hcfg; rw [hostEvent_reset_of_fits hrom, resetWith_of_cfg_eq hcfg]

end Sys2Proof.Machine
end

/-! ## The Draw-Ready Flag

No instruction but `00E0` and `DXYN` looks at the display or at `DRF`: a change of the two goes through each operation the
others are written over, and so through every one of them. -/

section
namespace Sys2Proof.Machine

/-- `s` with its display and its `DRF` changed. -/
def State.mapScreen (s : State) (d : Display → Display) (b : Bool → Bool) : State :=
  { s with disp := d s.disp, drf := b s.drf }

section
variable (d : Display → Display) (b : Bool → Bool)

theorem State.mapScreen_skipIf (s : State) (c : Bool) : (s.mapScreen d b).skipIf c = (s.skipIf c).mapScreen d b := by
  cases c <;> rfl

theorem State.mapScreen_afterDraw (s : State) : (s.mapScreen d b).afterDraw = s.afterDraw.mapScreen d b := by
  simp only [State.afterDraw, State.mapScreen]
  split <;> rfl

theorem State.mapScreen_setBytes (s : State) (a : Nat) (bs : List Byte) :
    (s.mapScreen d b).setBytes a bs = (s.setBytes a bs).mapScreen d b := by
  induction bs generalizing s a with
  | nil => rfl
  | cons c bs ih => exact ih (s.setByte a c) (a + 1)

theorem State.mapScreen_loadRegs (s : State) (n : Nat) :
    (s.mapScreen d b).loadRegs n = (s.loadRegs n).mapScreen d b := by
  induction n with
  | zero => rfl
  | succ n ih =>
    simp only [State.loadRegs, ih]
    split <;> rfl

theorem raise_mapScreen (c : FaultCause) (info : Word) (s : State) :
    raise c info (s.mapScreen d b) = onResult (·.mapScreen d b) (raise c info s) := by
  cases c <;> rfl

theorem withBlock_mapScreen (s t : State) (base count : Nat) :
    (s.mapScreen d b).withBlock base count (.next (t.mapScreen d b)) =
      onResult (·.mapScreen d b) (s.withBlock base count (.next t)) := by
  unfold State.withBlock
  cases firstOutOfRange base count with
  | some a => exact raise_mapScreen d b _ _ s
  | none => rfl

theorem skipOnKey_mapScreen (x : Reg) (test : Bool → Bool) (s : State) :
    skipOnKey x test (s.mapScreen d b) = onResult (·.mapScreen d b) (skipOnKey x test s) := by
  have hkey : (s.mapScreen d b).keyOf x = s.keyOf x := rfl
  unfold skipOnKey
  rw [hkey]
  cases s.keyOf x with
  | some k => exact congrArg Host.Outcome.next (State.mapScreen_skipIf d b s _)
  | none => exact raise_mapScreen d b _ _ s

/-- An instruction that is neither `00E0` nor `DXYN` observes neither the display nor `DRF` (R19, R160). -/
theorem exec_mapScreen {i : Instr} (hi : isDisplay i = false) (s : State) :
    exec i (s.mapScreen d b) = onResult (·.mapScreen d b) (exec i s) := by
  cases i with
  | cls => cases hi
  | drwVxVyN => cases hi
  | ret =>
    have hstack : (s.mapScreen d b).stack = s.stack := rfl
    simp only [exec, execRet, hstack]
    cases s.stack with
    | nil => exact raise_mapScreen d b _ _ s
    | cons w ws => rfl
  | call nnn =>
    have hfull : (s.mapScreen d b).stackFull = s.stackFull := rfl
    simp only [exec, execCall, hfull]
    cases s.stackFull with
    | true => exact raise_mapScreen d b _ _ s
    | false => rfl
  | seVxNn => exact congrArg Host.Outcome.next (State.mapScreen_skipIf d b s _)
  | sneVxNn => exact congrArg Host.Outcome.next (State.mapScreen_skipIf d b s _)
  | seVxVy => exact congrArg Host.Outcome.next (State.mapScreen_skipIf d b s _)
  | sneVxVy => exact congrArg Host.Outcome.next (State.mapScreen_skipIf d b s _)
  | skpVx x => exact skipOnKey_mapScreen d b x id s
  | sknpVx x => exact skipOnKey_mapScreen d b x not s
  | rndVxNn x nn =>
    exact congrArg (fun u : State => (Host.Outcome.next (u.setReg x (nn &&& s.rnd)) : Result)) (State.mapScreen_afterDraw d b s)
  | ldVxK x =>
    have hkey : (s.mapScreen d b).firstKeyDown = s.firstKeyDown := rfl
    simp only [exec, execLdVxK, hkey]
    cases s.firstKeyDown <;> rfl
  | ldBVx x =>
    simp only [exec, execLdBVx, State.mapScreen_setBytes]
    exact withBlock_mapScreen d b s (s.setBytes s.i.toNat (decimalDigits (s.reg x))) _ _
  | ldMemIVx x =>
    simp only [exec, execLdMemIVx, State.mapScreen_setBytes]
    exact withBlock_mapScreen d b s ((s.setBytes s.i.toNat (s.regsUpTo x)).setI (s.indexAfterBlock x)) _ _
  | ldVxMemI x =>
    simp only [exec, execLdVxMemI, State.mapScreen_loadRegs]
    exact withBlock_mapScreen d b s ((s.loadRegs (x.val + 1)).setI (s.indexAfterBlock x)) _ _
  | _ => rfl

end

/-- No instruction but `DXYN` reads `DRF`; `00E0` does not either (R19, R161). -/
theorem exec_of_drf {i : Instr} (hi : isDraw i = false) (s : State) (b : Bool) :
    exec i { s with drf := b } = onResult (fun t => { t with drf := b }) (exec i s) := by
  cases i with
  | cls => rfl
  | drwVxVyN => cases hi
  | _ => exact exec_mapScreen id (fun _ => b) rfl s

/-- No tick sets `DRF` (R239). -/
theorem drf_of_step_next {s t : State} (h : step s = .next t) (ht : t.drf = true) : s.drf = true := by
  rcases step_next_cases h with ⟨-, rfl⟩ | ⟨-, i, -, hexec⟩
  · exact ht
  · rw [(exec_next hexec).drf_eq, Bool.and_eq_true] at ht
    exact ht.1

/-- A Tick of the host that goes on is a tick with the host's byte (R235). -/
theorem tickWith_next {rnd : Byte} {s t : State} (h : tickWith rnd s = .next t) :
    ∃ u, step (s.withFeed [rnd]) = .next u ∧ t = u.withFeed s.rndFeed := by
  unfold tickWith at h
  split at h
  · rename_i u hu
    exact ⟨u, hu, (Host.Outcome.next.inj h).symm⟩
  · cases h
  · cases h

/-- A Reset that is accepted leaves `resetWith` (R231). -/
theorem resetEvent_next {rom : List Byte} {s t : State} (h : resetEvent rom s = .next t) : t = s.resetWith rom := by
  unfold resetEvent at h
  split at h
  · exact (Host.Outcome.next.inj h).symm
  · cases h

/-- A Frame or key event that is accepted does what it says (R212, R215). -/
theorem onInitialized_next {s u t : State} (h : onInitialized s u = .next t) : t = u := by
  unfold onInitialized at h
  split at h
  · exact (Host.Outcome.next.inj h).symm
  · cases h

/-- No event but a Frame sets `DRF` (R19). -/
theorem drf_of_hostEvent_next {e : HostEvent} {s t : State} (he : e ≠ .frame) (h : hostEvent e s = .next t)
    (ht : t.drf = true) : s.drf = true := by
  cases e with
  | reset rom =>
    obtain rfl := resetEvent_next h
    cases ht
  | tick rnd =>
    obtain ⟨u, hu, rfl⟩ := tickWith_next h
    exact drf_of_step_next (s := s.withFeed [rnd]) hu ht
  | frame => exact absurd rfl he
  | keyDown k =>
    obtain rfl := onInitialized_next h
    exact ht
  | keyUp k =>
    obtain rfl := onInitialized_next h
    exact ht

theorem hostEvent_frame_of_init {s : State} (h : s.init = true) : hostEvent .frame s = .next s.frame := if_pos h

/-- Settles O45: `exec_of_drf` for the instructions that do not read it, `Effect.drf_eq` for those that clear or keep it. -/
theorem drawReadyFlagProtocol : Obligations.DrawReadyFlagProtocol := by
  refine ⟨fun s hinit _ => ⟨s.frame, hostEvent_frame_of_init hinit, rfl⟩, fun _ _ _ => drf_of_hostEvent_next,
    fun _ s b hi => exec_of_drf hi s b, fun i s t hi hexec => ?_⟩
  simp [(exec_next hexec).drf_eq, hi]

end Sys2Proof.Machine
end

/-! ## Blocks that leave memory, and a store the next tick fetches -/

section
namespace Sys2Proof.Machine

/-- A block from `I` that leaves memory ends in the fault that records `this_pc` and the first address outside, and commits
nothing (R56, R203, R205). -/
theorem withBlock_i_fault_of_le {s : State} {last : Nat} (h : 4096 ≤ s.i.toNat + last) (go : Result) :
    s.withBlock s.i.toNat (last + 1) go = .fault (.outOfRange
      { s with pc := s.pc - 2, fault := some ⟨.outOfRange, s.pc - 2, BitVec.ofNat 16 (max s.i.toNat 4096)⟩ }) :=
  withBlock_of_gt go (Nat.succ_ne_zero last) (Nat.lt_succ_of_le h)

/-- A draw with `DRF` set checks the block of all its rows before it draws (R162, D20). -/
theorem exec_drwVxVyN_of_drf {s : State} (h : s.drf = true) (x y : Reg) (n : Fin 16) :
    exec (.drwVxVyN x y n) s = s.withBlock s.i.toNat n (.next (s.drawSprite x y n)) :=
  if_pos h

/-- Settles O35: the four instructions check their block first, and a block that leaves memory faults
(`withBlock_i_fault_of_le`). -/
theorem blocksFaultPastMemory : Obligations.BlocksFaultPastMemory := by
  rintro x y n s f rfl
  refine ⟨fun h => withBlock_i_fault_of_le h _,
    fun h => ⟨withBlock_i_fault_of_le h _, withBlock_i_fault_of_le h _⟩, fun hdrf hn h => ?_⟩
  have hrows : n.val = n.val - 1 + 1 := (Nat.sub_add_cancel hn).symm
  rw [exec_drwVxVyN_of_drf hdrf, hrows]
  exact withBlock_i_fault_of_le h _

/-- Each register up to `V[x]` stands at its own number in the block `FX55` stores (R145). -/
theorem State.regsUpTo_getElem? (s : State) {x r : Reg} (h : r ≤ x) : (s.regsUpTo x)[r.val]? = some (s.reg r) := by
  have hlt : r.val < x.val + 1 := Nat.lt_succ_of_le h
  simp [State.regsUpTo, State.reg, hlt]

/-- What a stored block of registers reads as (R145). -/
theorem State.byteAt_setBytes_regsUpTo (s : State) (a : Nat) {x r : Reg} (h : r ≤ x) :
    (s.setBytes a (s.regsUpTo x)).byteAt (a + r.val) = s.reg r := by
  simp [State.byteAt_setBytes, s.regsUpTo_getElem? h]

/-- `FX55` inside memory completes (R145). -/
theorem exec_ldMemIVx_of_lt {s : State} {x : Reg} (h : s.i.toNat + x.val < 4096) :
    exec (.ldMemIVx x) s = .next ((s.setBytes s.i.toNat (s.regsUpTo x)).setI (s.indexAfterBlock x)) :=
  withBlock_of_le _ (.inr h)

/-- The fetch inside memory is the decoding of the two bytes at `pc` (R44, R70). -/
theorem fetch_of_decode {s : State} {i : Instr} {rest : List Byte} (h : s.pc.toNat + 1 < 4096)
    (hdecode : decode [s.byteAt s.pc.toNat, s.byteAt (s.pc.toNat + 1)] = .ok (i, rest)) : s.fetch = .ok i := by
  have hinside : firstOutOfRange s.pc.toNat 2 = none := firstOutOfRange_eq_none.2 (.inr h)
  simp only [State.fetch, hinside, hdecode]

/-- Settles O36: after the store the two bytes at `pc` are `V[0]` and `V[1]`, and the core is running there still. -/
theorem storeIsSeenByTheNextFetch : Obligations.StoreIsSeenByTheNextFetch := by
  intro x s hx hi hblock hrun
  refine ⟨_, exec_ldMemIVx_of_lt hblock, fun i hdecode => ?_⟩
  set t := (s.setBytes s.i.toNat (s.regsUpTo x)).setI (s.indexAfterBlock x) with ht
  have hpc : t.pc = s.pc := by simp [ht]
  have htrun : t.Running := by simpa [State.Running, ht] using hrun
  have hhigh : t.byteAt t.pc.toNat = s.reg 0 := by
    rw [hpc, ← hi]
    exact s.byteAt_setBytes_regsUpTo s.i.toNat (Fin.zero_le x)
  have hlow : t.byteAt (t.pc.toNat + 1) = s.reg 1 := by
    rw [hpc, ← hi]
    exact s.byteAt_setBytes_regsUpTo s.i.toNat (r := 1) hx
  have hfetch : t.fetch = .ok i := by
    refine fetch_of_decode (by rw [hpc, ← hi]; omega) (rest := []) ?_
    rw [hhigh, hlow, hdecode]
  rw [step_of_running htrun, hfetch, ← hpc]
  rfl

end Sys2Proof.Machine
end

/-! ## The opcode table: disjoint rows, and which words they select

The rows differ in the bits both fix, so no word selects two of them and the decoder follows every row it is given (R65). -/

section
namespace Sys2Proof

theorem opcodeTable_mnemonics_nodup : (opcodeTable.map OpcodeRow.mnemonic).Nodup := by decide

/-- Two rows never have the same value in the bits that both fix. -/
theorem opcodeTable_patterns_differ :
    opcodeTable.Pairwise fun r r' => r.pattern &&& r'.mask ≠ r'.pattern &&& r.mask := by decide

theorem opcodeTable_disjoint :
    opcodeTable.Pairwise fun r r' => ∀ w, ¬(r.selects w = true ∧ r'.selects w = true) :=
  opcodeTable_patterns_differ.imp fun hne _ ⟨h, h'⟩ => hne (OpcodeRow.patterns_agree h h')

/-- A word selects one row at most (R65). -/
theorem row_unique {r r' : OpcodeRow} {w : Word} (hr : r ∈ opcodeTable) (hr' : r' ∈ opcodeTable)
    (h : r.selects w = true) (h' : r'.selects w = true) : r' = r := by
  by_contra hne
  have : Std.Symm fun r r' : OpcodeRow => ∀ w, ¬(r.selects w = true ∧ r'.selects w = true) :=
    ⟨fun _ _ hdisjoint w hboth => hdisjoint w hboth.symm⟩
  exact opcodeTable_disjoint.forall hr' hr hne w ⟨h', h⟩

theorem decodeWord_of_selects {r : OpcodeRow} {w : Word} (hr : r ∈ opcodeTable) (h : r.selects w = true) :
    decodeWord w = .ok (r.build w) := by
  have hfind := find_row_of_unique hr h fun _ hr' h' => row_unique hr hr' h h'
  simp only [decodeWord, hfind]

/-- A word decodes to what the rows it selects build of it, and to nothing else (R65). -/
theorem decodeWord_eq_ok_iff {w : Word} {i : Instr} :
    decodeWord w = .ok i ↔ ∃ r ∈ opcodeTable, r.selects w = true ∧ r.build w = i := by
  constructor
  · intro h
    unfold decodeWord at h
    split at h
    · rename_i r hfind
      exact ⟨r, List.mem_of_find?_eq_some hfind,
        List.find?_some (p := fun q : OpcodeRow => q.selects w) hfind, Except.ok.inj h⟩
    · cases h
  · rintro ⟨r, hr, hselects, rfl⟩
    exact decodeWord_of_selects hr hselects

/-- Settles O4: the fixed bits two rows have in common differ (`opcodeTable_patterns_differ`), so the first row found is the
only one. -/
theorem opcodeRowsAreDisjoint : Obligations.OpcodeRowsAreDisjoint :=
  ⟨rfl, (List.pairwise_map.1 opcodeTable_mnemonics_nodup).and opcodeTable_disjoint,
    fun _ hr _ h => decodeWord_of_selects hr h⟩

/-! ### Rows digit by digit -/

theorem append_inj {m n : Nat} {a c : BitVec m} {b d : BitVec n} : a ++ b = c ++ d ↔ a = c ∧ b = d := by
  refine ⟨fun h => ⟨?_, ?_⟩, fun ⟨hac, hbd⟩ => hac ▸ hbd ▸ rfl⟩
  · rw [← BitVec.extractLsb'_append_eq_left (a := a) (b := b), h, BitVec.extractLsb'_append_eq_left]
  · rw [← BitVec.extractLsb'_append_eq_right (a := a) (b := b), h, BitVec.extractLsb'_append_eq_right]

theorem digits_eq_iff (f x y n : BitVec 4) (w : Word) : f ++ x ++ y ++ n = w ↔
    f = w.extractLsb' 12 4 ∧ x = w.extractLsb' 8 4 ∧ y = w.extractLsb' 4 4 ∧ n = w.extractLsb' 0 4 := by
  conv_lhs => rw [word_digits w]
  simp only [append_inj, and_assoc]

/-- A row looks at each digit by itself (R65). -/
theorem OpcodeRow.selects_digits (r : OpcodeRow) (f x y n : BitVec 4) : r.selects (f ++ x ++ y ++ n) = true ↔
    f &&& r.mask.extractLsb' 12 4 = r.pattern.extractLsb' 12 4 ∧
    x &&& r.mask.extractLsb' 8 4 = r.pattern.extractLsb' 8 4 ∧
    y &&& r.mask.extractLsb' 4 4 = r.pattern.extractLsb' 4 4 ∧
    n &&& r.mask.extractLsb' 0 4 = r.pattern.extractLsb' 0 4 := by
  rw [OpcodeRow.selects, beq_iff_eq, word_digits r.mask, BitVec.and_append, BitVec.and_append, BitVec.and_append,
    digits_eq_iff, ← word_digits]

theorem exists_decodeWord_iff {w : Word} : (∃ i, decodeWord w = .ok i) ↔ ∃ r ∈ opcodeTable, r.selects w = true := by
  simp only [decodeWord_eq_ok_iff]
  exact ⟨fun ⟨_, r, hr, hselects, _⟩ => ⟨r, hr, hselects⟩, fun ⟨r, hr, hselects⟩ => ⟨_, r, hr, hselects, rfl⟩⟩

theorem digit_le_seven : ∀ n : BitVec 4, n.toNat ≤ 7 ↔
    n = 0 ∨ n = 1 ∨ n = 2 ∨ n = 3 ∨ n = 4 ∨ n = 5 ∨ n = 6 ∨ n = 7 := by decide

section Families
variable (f x y n : BitVec 4)

/-- Families 0 to 5. -/
theorem rowsControl_select_iff : (∃ r ∈ rowsControl, r.selects (f ++ x ++ y ++ n) = true) ↔
    (f = 0 ∧ x = 0 ∧ y = 0xE ∧ (n = 0 ∨ n = 0xE)) ∨ f = 1 ∨ f = 2 ∨ f = 3 ∨ f = 4 ∨ (f = 5 ∧ n = 0) := by
  simp [rowsControl, OpcodeRow.selects_digits, and_15, and_or_left, or_assoc]

/-- Families 6 to 9. -/
theorem rowsAlu_select_iff : (∃ r ∈ rowsAlu, r.selects (f ++ x ++ y ++ n) = true) ↔
    f = 6 ∨ f = 7 ∨ (f = 8 ∧ (n.toNat ≤ 7 ∨ n = 0xE)) ∨ (f = 9 ∧ n = 0) := by
  simp [rowsAlu, OpcodeRow.selects_digits, and_15, digit_le_seven, and_or_left, or_assoc]

/-- Families A to D. -/
theorem rowsIndexDraw_select_iff : (∃ r ∈ rowsIndexDraw, r.selects (f ++ x ++ y ++ n) = true) ↔
    f = 0xA ∨ f = 0xB ∨ f = 0xC ∨ f = 0xD := by
  simp [rowsIndexDraw, OpcodeRow.selects_digits, and_15]

/-- Families E and F. -/
theorem rowsKeysTimersMemory_select_iff : (∃ r ∈ rowsKeysTimersMemory, r.selects (f ++ x ++ y ++ n) = true) ↔
    (f = 0xE ∧ ((y = 9 ∧ n = 0xE) ∨ (y = 0xA ∧ n = 1))) ∨
    (f = 0xF ∧ ((y = 0 ∧ (n = 7 ∨ n = 0xA)) ∨ (y = 1 ∧ (n = 5 ∨ n = 8 ∨ n = 0xE)) ∨ (y = 2 ∧ n = 9) ∨
      (y = 3 ∧ n = 3) ∨ (y = 5 ∧ n = 5) ∨ (y = 6 ∧ n = 5))) := by
  simp [rowsKeysTimersMemory, OpcodeRow.selects_digits, and_15, and_or_left, or_assoc]

end Families

/-- Settles O5: a word decodes when some row selects it, and each family of rows is read off its digits. -/
theorem wordsThatDecode : Obligations.WordsThatDecode := by
  intro f x y n
  simp only [exists_decodeWord_iff, opcodeTable, List.mem_append, or_and_right, exists_or, rowsControl_select_iff,
    rowsAlu_select_iff, rowsIndexDraw_select_iff, rowsKeysTimersMemory_select_iff]
  exact Iff.of_eq (by ac_rfl)

/-- Settles O1, by running the decoder on the written-out words. -/
theorem writtenOutWordsDecode : Obligations.WrittenOutWordsDecode := by
  unfold Obligations.WrittenOutWordsDecode
  decide

end Sys2Proof
end

/-! ## Encoding and decoding

A packed word is its digits (`packXY_eq` and the like), so packing the fields of a word gives it back and the fields of a packed
word are what was packed. -/

section
namespace Sys2Proof

open Machine

/-! ### Packed words as digits -/

/-- A word is its first digit and 12 bits. -/
theorem word_address (w : Word) : w = w.extractLsb' 12 4 ++ w.extractLsb' 0 12 :=
  (BitVec.extractLsb'_append_extractLsb' (w := 4) (len := 12)).symm

/-- A word is two digits and a byte. -/
theorem word_immediate (w : Word) : w = w.extractLsb' 12 4 ++ w.extractLsb' 8 4 ++ w.extractLsb' 0 8 := by
  have hhigh : w.extractLsb' 12 4 ++ w.extractLsb' 8 4 = w.extractLsb' 8 8 :=
    BitVec.extractLsb'_append_extractLsb'_eq_extractLsb' rfl
  rw [hhigh]
  exact (BitVec.extractLsb'_append_extractLsb' (w := 8) (len := 8)).symm

@[simp] theorem nibble_toFin (r : Fin 16) : (nibble r).toFin = r := rfl
@[simp] theorem toFin_nibble (b : BitVec 4) : nibble b.toFin = b := rfl

theorem shiftLeft_8_eq_digits : ∀ x : Reg, BitVec.ofNat 16 x <<< 8 = 0#4 ++ nibble x ++ 0#4 ++ 0#4 := by decide
theorem shiftLeft_8_eq_immediate : ∀ x : Reg, BitVec.ofNat 16 x <<< 8 = 0#4 ++ nibble x ++ 0#8 := by decide
theorem shiftLeft_4_eq_digits : ∀ y : Reg, BitVec.ofNat 16 y <<< 4 = 0#4 ++ 0#4 ++ nibble y ++ 0#4 := by decide
theorem ofNat_eq_digits : ∀ n : Fin 16, BitVec.ofNat 16 n = 0#4 ++ 0#4 ++ 0#4 ++ nibble n := by decide

theorem or_digits (f x y n f' x' y' n' : BitVec 4) : (f ++ x ++ y ++ n : Word) ||| (f' ++ x' ++ y' ++ n') =
    (f ||| f') ++ (x ||| x') ++ (y ||| y') ++ (n ||| n') := by
  rw [BitVec.or_append, BitVec.or_append, BitVec.or_append]

theorem or_immediate (f x f' x' : BitVec 4) (nn nn' : Byte) : (f ++ x ++ nn) ||| (f' ++ x' ++ nn') =
    (f ||| f') ++ (x ||| x') ++ (nn ||| nn') := by
  rw [BitVec.or_append, BitVec.or_append]

section Packed
variable (f b a : BitVec 4) (x y : Reg) (n : Fin 16) (nn : Byte) (nnn : Addr12)

theorem packNnn_eq : packNnn (f ++ 0#12) nnn = f ++ nnn := by
  have hnnn : nnn.setWidth 16 = 0#4 ++ nnn := BitVec.setWidth_eq_append (by decide)
  rw [packNnn, hnnn, BitVec.or_append, BitVec.or_zero, BitVec.zero_or]

theorem packXNn_eq : packXNn (f ++ 0#4 ++ 0#8) x nn = f ++ nibble x ++ nn := by
  have hnn : nn.setWidth 16 = 0#4 ++ 0#4 ++ nn := BitVec.setWidth_eq_append (by decide)
  simp only [packXNn, hnn, shiftLeft_8_eq_immediate, or_immediate, BitVec.or_zero, BitVec.zero_or]

theorem packXY_eq : packXY (f ++ 0#4 ++ 0#4 ++ a) x y = f ++ nibble x ++ nibble y ++ a := by
  simp only [packXY, shiftLeft_8_eq_digits, shiftLeft_4_eq_digits, or_digits, BitVec.or_zero, BitVec.zero_or]

theorem packXYN_eq : packXYN (f ++ 0#4 ++ 0#4 ++ 0#4) x y n = f ++ nibble x ++ nibble y ++ nibble n := by
  simp only [packXYN, packXY_eq, ofNat_eq_digits, or_digits, BitVec.or_zero, BitVec.zero_or]

theorem packX_eq : packX (f ++ 0#4 ++ b ++ a) x = f ++ nibble x ++ b ++ a := by
  simp only [packX, shiftLeft_8_eq_digits, or_digits, BitVec.or_zero, BitVec.zero_or]

end Packed

/-! ### Packing the fields of a word -/

section Fields
variable {w p : Word}

theorem packNnn_fields (h : w &&& 0xF000 = p) : packNnn p (fieldNnn w) = w := by
  rw [← h, word_address w, address_and_F000, fieldNnn_address, packNnn_eq]

theorem packXNn_fields (h : w &&& 0xF000 = p) : packXNn p (fieldX w) (fieldNn w) = w := by
  rw [← h, word_immediate w, immediate_and_F000, fieldX_immediate, fieldNn_immediate, packXNn_eq, toFin_nibble]

theorem packXY_fields (h : w &&& 0xF00F = p) : packXY p (fieldX w) (fieldY w) = w := by
  rw [← h, word_digits w, digits_and_F00F, fieldX_digits, fieldY_digits, packXY_eq, toFin_nibble, toFin_nibble]

theorem packXYN_fields (h : w &&& 0xF000 = p) : packXYN p (fieldX w) (fieldY w) (fieldN w) = w := by
  rw [← h, word_digits w, digits_and_F000, fieldX_digits, fieldY_digits, fieldN_digits, packXYN_eq, toFin_nibble,
    toFin_nibble, toFin_nibble]

theorem packX_fields (h : w &&& 0xF0FF = p) : packX p (fieldX w) = w := by
  rw [← h, word_digits w, digits_and_F0FF, fieldX_digits, packX_eq, toFin_nibble]

theorem pattern_eq_of_and_FFFF (h : w &&& 0xFFFF = p) : p = w := h.symm.trans BitVec.and_allOnes

end Fields

/-- Encoding what the row builds of a word gives the word back, for every word that selects the row. -/
def OpcodeRow.KeepsWord (r : OpcodeRow) : Prop := ∀ w, r.selects w = true → encodeWord (r.build w) = w

theorem rowsControl_keepWord : ∀ r ∈ rowsControl, r.KeepsWord := by
  simp only [rowsControl, List.forall_mem_cons, OpcodeRow.KeepsWord, OpcodeRow.selects, beq_iff_eq]
  exact ⟨fun _ => pattern_eq_of_and_FFFF, fun _ => pattern_eq_of_and_FFFF, fun _ => packNnn_fields,
    fun _ => packNnn_fields, fun _ => packXNn_fields, fun _ => packXNn_fields, fun _ => packXY_fields, nofun⟩

theorem rowsAlu_keepWord : ∀ r ∈ rowsAlu, r.KeepsWord := by
  simp only [rowsAlu, List.forall_mem_cons, OpcodeRow.KeepsWord, OpcodeRow.selects, beq_iff_eq]
  exact ⟨fun _ => packXNn_fields, fun _ => packXNn_fields, fun _ => packXY_fields, fun _ => packXY_fields,
    fun _ => packXY_fields, fun _ => packXY_fields, fun _ => packXY_fields, fun _ => packXY_fields,
    fun _ => packXY_fields, fun _ => packXY_fields, fun _ => packXY_fields, fun _ => packXY_fields, nofun⟩

theorem rowsIndexDraw_keepWord : ∀ r ∈ rowsIndexDraw, r.KeepsWord := by
  simp only [rowsIndexDraw, List.forall_mem_cons, OpcodeRow.KeepsWord, OpcodeRow.selects, beq_iff_eq]
  exact ⟨fun _ => packNnn_fields, fun _ => packNnn_fields, fun _ => packXNn_fields, fun _ => packXYN_fields, nofun⟩

theorem rowsKeysTimersMemory_keepWord : ∀ r ∈ rowsKeysTimersMemory, r.KeepsWord := by
  simp only [rowsKeysTimersMemory, List.forall_mem_cons, OpcodeRow.KeepsWord, OpcodeRow.selects, beq_iff_eq]
  exact ⟨fun _ => packX_fields, fun _ => packX_fields, fun _ => packX_fields, fun _ => packX_fields,
    fun _ => packX_fields, fun _ => packX_fields, fun _ => packX_fields, fun _ => packX_fields,
    fun _ => packX_fields, fun _ => packX_fields, fun _ => packX_fields, nofun⟩

theorem opcodeTable_keepWord : ∀ r ∈ opcodeTable, r.KeepsWord := by
  simp only [opcodeTable, List.forall_mem_append]
  exact ⟨⟨⟨rowsControl_keepWord, rowsAlu_keepWord⟩, rowsIndexDraw_keepWord⟩, rowsKeysTimersMemory_keepWord⟩

/-- Settles O3: the word selects a row, and every row keeps its words (`opcodeTable_keepWord`). -/
theorem encodeOfDecodeIsTheWord : Obligations.EncodeOfDecodeIsTheWord := by
  intro w i h
  obtain ⟨r, hr, hselects, rfl⟩ := decodeWord_eq_ok_iff.1 h
  exact opcodeTable_keepWord r hr w hselects

/-! ### Decoding a packed word -/

/-- The row of the table at a place. -/
theorem opcodeTable_row (k : Nat) (hk : k < 34 := by decide) : opcodeTable[k]'hk ∈ opcodeTable := List.getElem_mem hk

section Decoded
variable {m : String}

theorem decodeWord_packNnn {mk : Addr12 → Instr} (f : BitVec 4)
    (hr : ⟨m, f ++ 0#12, 0xF000, fun w => mk (fieldNnn w)⟩ ∈ opcodeTable) (nnn : Addr12) :
    decodeWord (packNnn (f ++ 0#12) nnn) = .ok (mk nnn) := by
  rw [decodeWord_of_selects hr]
  · simp only [packNnn_eq, fieldNnn_address]
  · simp only [packNnn_eq, OpcodeRow.selects, address_and_F000, beq_self_eq_true]

theorem decodeWord_packXNn {mk : Reg → Byte → Instr} (f : BitVec 4)
    (hr : ⟨m, f ++ 0#4 ++ 0#8, 0xF000, fun w => mk (fieldX w) (fieldNn w)⟩ ∈ opcodeTable) (x : Reg) (nn : Byte) :
    decodeWord (packXNn (f ++ 0#4 ++ 0#8) x nn) = .ok (mk x nn) := by
  rw [decodeWord_of_selects hr]
  · simp only [packXNn_eq, fieldX_immediate, fieldNn_immediate, nibble_toFin]
  · simp only [packXNn_eq, OpcodeRow.selects, immediate_and_F000, beq_self_eq_true]

theorem decodeWord_packXY {mk : Reg → Reg → Instr} (f n : BitVec 4)
    (hr : ⟨m, f ++ 0#4 ++ 0#4 ++ n, 0xF00F, fun w => mk (fieldX w) (fieldY w)⟩ ∈ opcodeTable) (x y : Reg) :
    decodeWord (packXY (f ++ 0#4 ++ 0#4 ++ n) x y) = .ok (mk x y) := by
  rw [decodeWord_of_selects hr]
  · simp only [packXY_eq, fieldX_digits, fieldY_digits, nibble_toFin]
  · simp only [packXY_eq, OpcodeRow.selects, digits_and_F00F, beq_self_eq_true]

theorem decodeWord_packXYN {mk : Reg → Reg → Fin 16 → Instr} (f : BitVec 4)
    (hr : ⟨m, f ++ 0#4 ++ 0#4 ++ 0#4, 0xF000, fun w => mk (fieldX w) (fieldY w) (fieldN w)⟩ ∈ opcodeTable)
    (x y : Reg) (n : Fin 16) : decodeWord (packXYN (f ++ 0#4 ++ 0#4 ++ 0#4) x y n) = .ok (mk x y n) := by
  rw [decodeWord_of_selects hr]
  · simp only [packXYN_eq, fieldX_digits, fieldY_digits, fieldN_digits, nibble_toFin]
  · simp only [packXYN_eq, OpcodeRow.selects, digits_and_F000, beq_self_eq_true]

theorem decodeWord_packX {mk : Reg → Instr} (f y n : BitVec 4)
    (hr : ⟨m, f ++ 0#4 ++ y ++ n, 0xF0FF, fun w => mk (fieldX w)⟩ ∈ opcodeTable) (x : Reg) :
    decodeWord (packX (f ++ 0#4 ++ y ++ n) x) = .ok (mk x) := by
  rw [decodeWord_of_selects hr]
  · simp only [packX_eq, fieldX_digits, nibble_toFin]
  · simp only [packX_eq, OpcodeRow.selects, digits_and_F0FF, beq_self_eq_true]

end Decoded

/-- The word of an instruction decodes to it, by its own row of the table. -/
theorem decodeWord_encodeWord (i : Instr) : decodeWord (encodeWord i) = .ok i := by
  cases i with
  | cls => exact decodeWord_of_selects (opcodeTable_row 0) rfl
  | ret => exact decodeWord_of_selects (opcodeTable_row 1) rfl
  | jp nnn => exact decodeWord_packNnn 1 (opcodeTable_row 2) nnn
  | call nnn => exact decodeWord_packNnn 2 (opcodeTable_row 3) nnn
  | seVxNn x nn => exact decodeWord_packXNn 3 (opcodeTable_row 4) x nn
  | sneVxNn x nn => exact decodeWord_packXNn 4 (opcodeTable_row 5) x nn
  | seVxVy x y => exact decodeWord_packXY 5 0 (opcodeTable_row 6) x y
  | ldVxNn x nn => exact decodeWord_packXNn 6 (opcodeTable_row 7) x nn
  | addVxNn x nn => exact decodeWord_packXNn 7 (opcodeTable_row 8) x nn
  | ldVxVy x y => exact decodeWord_packXY 8 0 (opcodeTable_row 9) x y
  | orVxVy x y => exact decodeWord_packXY 8 1 (opcodeTable_row 10) x y
  | andVxVy x y => exact decodeWord_packXY 8 2 (opcodeTable_row 11) x y
  | xorVxVy x y => exact decodeWord_packXY 8 3 (opcodeTable_row 12) x y
  | addVxVy x y => exact decodeWord_packXY 8 4 (opcodeTable_row 13) x y
  | subVxVy x y => exact decodeWord_packXY 8 5 (opcodeTable_row 14) x y
  | shrVxVy x y => exact decodeWord_packXY 8 6 (opcodeTable_row 15) x y
  | subnVxVy x y => exact decodeWord_packXY 8 7 (opcodeTable_row 16) x y
  | shlVxVy x y => exact decodeWord_packXY 8 0xE (opcodeTable_row 17) x y
  | sneVxVy x y => exact decodeWord_packXY 9 0 (opcodeTable_row 18) x y
  | ldINnn nnn => exact decodeWord_packNnn 0xA (opcodeTable_row 19) nnn
  | jpV0Nnn nnn => exact decodeWord_packNnn 0xB (opcodeTable_row 20) nnn
  | rndVxNn x nn => exact decodeWord_packXNn 0xC (opcodeTable_row 21) x nn
  | drwVxVyN x y n => exact decodeWord_packXYN 0xD (opcodeTable_row 22) x y n
  | skpVx x => exact decodeWord_packX 0xE 9 0xE (opcodeTable_row 23) x
  | sknpVx x => exact decodeWord_packX 0xE 0xA 1 (opcodeTable_row 24) x
  | ldVxDt x => exact decodeWord_packX 0xF 0 7 (opcodeTable_row 25) x
  | ldVxK x => exact decodeWord_packX 0xF 0 0xA (opcodeTable_row 26) x
  | ldDtVx x => exact decodeWord_packX 0xF 1 5 (opcodeTable_row 27) x
  | ldStVx x => exact decodeWord_packX 0xF 1 8 (opcodeTable_row 28) x
  | addIVx x => exact decodeWord_packX 0xF 1 0xE (opcodeTable_row 29) x
  | ldFVx x => exact decodeWord_packX 0xF 2 9 (opcodeTable_row 30) x
  | ldBVx x => exact decodeWord_packX 0xF 3 3 (opcodeTable_row 31) x
  | ldMemIVx x => exact decodeWord_packX 0xF 5 5 (opcodeTable_row 32) x
  | ldVxMemI x => exact decodeWord_packX 0xF 6 5 (opcodeTable_row 33) x

/-- Settles O2: the two bytes put together are the instruction's word, which decodes to it (`decodeWord_encodeWord`). -/
theorem decodeOfEncodeIsTheInstruction : Obligations.DecodeOfEncodeIsTheInstruction := by
  intro i rest
  simp only [encode, List.cons_append, List.nil_append, decode_two, wordOfBytes_split, decodeWord_encodeWord]

end Sys2Proof
end

/-! ## What a tick fetches -/

section
namespace Sys2Proof.Machine

/-- Settles O6: a running core fetches, and the two bytes at `pc` are what it decodes (`fetch_of_decode`). -/
theorem stepRunsFetchedInstruction : Obligations.StepRunsFetchedInstruction := by
  intro s i hrun hpc hdecode
  rw [step_of_running hrun, fetch_of_decode hpc hdecode]
  rfl

/-- A fault raised before the execute phase leaves the state with the latch set (R205). -/
theorem raise_advance (c : FaultCause) (info : Word) (s : State) :
    raise c info s.advance = .fault (c.toFault { s with fault := some ⟨c, s.pc, info⟩ }) := by
  rw [raise_eq, State.advance_thisPc]
  rfl

/-- A fetch that goes wrong is the tick's fault (R70, R201, R203 (a)). -/
theorem step_of_fetch_error {s : State} {c : FaultCause} {info : Word} (hrun : s.Running)
    (hfetch : s.fetch = .error (c, info)) :
    step s = .fault (c.toFault { s with fault := some ⟨c, s.pc, info⟩ }) := by
  rw [step_of_running hrun, hfetch]
  exact raise_advance c info s

/-- A word that decodes to nothing is reported by the fetch (R201). -/
theorem fetch_of_not_instruction {s : State} (hpc : s.pc.toNat + 1 < 4096) (hnone : ∀ i, decodeWord s.wordAtPc ≠ .ok i) :
    s.fetch = .error (.unknownOpcode, s.wordAtPc) := by
  rw [fetch_of_lt hpc]
  cases hdecode : decodeWord s.wordAtPc with
  | ok i => exact absurd hdecode (hnone i)
  | error e => rfl

/-- The last byte of memory holds no whole word: the fetch reports the address after it (R203 (a), D36). -/
theorem fetch_at_last_byte {s : State} (hpc : s.pc = 0xFFF) : s.fetch = .error (.outOfRange, 0x1000) := by
  rw [State.fetch, hpc]
  rfl

/-- Settles O7: both are errors of the fetch (`step_of_fetch_error`). -/
theorem fetchFaults : Obligations.FetchFaults := by
  refine fun s hrun => ⟨?_, fun hpc => step_of_fetch_error hrun (fetch_at_last_byte hpc)⟩
  rintro w hpc rfl hnone
  exact step_of_fetch_error hrun (fetch_of_not_instruction hpc hnone)

end Sys2Proof.Machine
end

/-! ## The host's random byte

The supplied bytes are read by `CXNN` alone: with other bytes supplied, any other instruction answers the same, with those bytes
left. So a Tick that fetches no `CXNN` is the tick without its byte. -/

section
namespace Sys2Proof.Machine

/-- Settles O25: the tick draws the one byte the event supplies, and the bytes for later draws are put back. -/
theorem tickDrawsTheHostsByte : Obligations.TickDrawsTheHostsByte := by
  intro s x nn rnd hrun hfetch
  have hstep : step (s.withFeed [rnd]) = exec (.rndVxNn x nn) (s.withFeed [rnd]).advance := by
    rw [step_of_running (s := s.withFeed [rnd]) hrun, show (s.withFeed [rnd]).fetch = s.fetch from rfl, hfetch]
  refine ⟨(s.advance.setReg x (nn &&& rnd)).withFeed s.rndFeed, ?_, ?_, ?_, rfl, fun _ => rfl⟩
  · simp only [hostEvent, tickWith, hstep]
    rfl
  · exact (State.reg_setReg s x x _).trans (if_pos rfl)
  · exact fun r hr => (State.reg_setReg s x r _).trans (if_neg hr)

/-! ### The operations that can fault, under a change of the state -/

section Change
variable {g : State → State} {s s' : State}

/-- A bounded block follows any change that its fault and its continuation follow. -/
theorem withBlock_onResult (base count : Nat) {go go' : Result}
    (hraise : ∀ c info, raise c info s' = onResult g (raise c info s)) (hgo : go' = onResult g go) :
    s'.withBlock base count go' = onResult g (s.withBlock base count go) := by
  unfold State.withBlock
  cases firstOutOfRange base count with
  | some a => exact hraise _ _
  | none => exact hgo

/-- A key skip follows any change that its fault and its skip follow, where registers and keys are the same. -/
theorem skipOnKey_onResult (x : Reg) (test : Bool → Bool) (hv : s'.v = s.v) (hkeys : s'.key = s.key)
    (hraise : ∀ c info, raise c info s' = onResult g (raise c info s)) (hskip : ∀ c, s'.skipIf c = g (s.skipIf c)) :
    skipOnKey x test s' = onResult g (skipOnKey x test s) := by
  have hreg : s'.reg x = s.reg x := by simp only [State.reg, hv]
  have hkey : s'.keyOf x = s.keyOf x := by simp only [State.keyOf, hreg]
  have hdown : s'.keyDown = s.keyDown := funext fun k => by simp only [State.keyDown, hkeys]
  unfold skipOnKey
  rw [hkey, hdown, hreg]
  cases s.keyOf x with
  | some k => exact congrArg Host.Outcome.next (hskip _)
  | none => exact hraise _ _

end Change

/-! ### Other bytes supplied -/

section Feed
variable (f : List Byte)

theorem State.withFeed_skipIf (s : State) (c : Bool) : (s.withFeed f).skipIf c = (s.skipIf c).withFeed f := by
  cases c <;> rfl

theorem State.withFeed_setBytes (s : State) (a : Nat) (bs : List Byte) :
    (s.withFeed f).setBytes a bs = (s.setBytes a bs).withFeed f := by
  induction bs generalizing s a with
  | nil => rfl
  | cons b bs ih => exact ih (s.setByte a b) (a + 1)

theorem State.withFeed_loadRegs (s : State) (n : Nat) : (s.withFeed f).loadRegs n = (s.loadRegs n).withFeed f := by
  induction n with
  | zero => rfl
  | succ n ih =>
    simp only [State.loadRegs, ih]
    split <;> rfl

theorem raise_withFeed (s : State) (c : FaultCause) (info : Word) :
    raise c info (s.withFeed f) = onResult (·.withFeed f) (raise c info s) := by
  cases c <;> rfl

/-- An instruction other than `CXNN` does not see the supplied bytes and leaves them (R70, R133). -/
theorem exec_withFeed {i : Instr} (hi : ∀ x nn, i ≠ .rndVxNn x nn) (s : State) :
    exec i (s.withFeed f) = onResult (·.withFeed f) (exec i s) := by
  cases i with
  | rndVxNn x nn => exact absurd rfl (hi x nn)
  | ret =>
    have hstack : (s.withFeed f).stack = s.stack := rfl
    simp only [exec, execRet, hstack]
    cases s.stack with
    | nil => exact raise_withFeed f s _ _
    | cons w ws => rfl
  | call nnn =>
    have hfull : (s.withFeed f).stackFull = s.stackFull := rfl
    simp only [exec, execCall, hfull]
    cases s.stackFull with
    | true => exact raise_withFeed f s _ _
    | false => rfl
  | seVxNn => exact congrArg Host.Outcome.next (State.withFeed_skipIf f s _)
  | sneVxNn => exact congrArg Host.Outcome.next (State.withFeed_skipIf f s _)
  | seVxVy => exact congrArg Host.Outcome.next (State.withFeed_skipIf f s _)
  | sneVxVy => exact congrArg Host.Outcome.next (State.withFeed_skipIf f s _)
  | skpVx x => exact skipOnKey_onResult x id rfl rfl (raise_withFeed f s) (State.withFeed_skipIf f s)
  | sknpVx x => exact skipOnKey_onResult x not rfl rfl (raise_withFeed f s) (State.withFeed_skipIf f s)
  | drwVxVyN x y n =>
    have hdrf : (s.withFeed f).drf = s.drf := rfl
    simp only [exec, execDrwVxVyN, hdrf]
    cases s.drf with
    | true => exact withBlock_onResult _ _ (raise_withFeed f s) rfl
    | false => rfl
  | ldVxK x =>
    have hkey : (s.withFeed f).firstKeyDown = s.firstKeyDown := rfl
    simp only [exec, execLdVxK, hkey]
    cases s.firstKeyDown <;> rfl
  | ldBVx x =>
    simp only [exec, execLdBVx, State.withFeed_setBytes]
    exact withBlock_onResult _ _ (raise_withFeed f s) rfl
  | ldMemIVx x =>
    simp only [exec, execLdMemIVx, State.withFeed_setBytes]
    exact withBlock_onResult _ _ (raise_withFeed f s) rfl
  | ldVxMemI x =>
    simp only [exec, execLdVxMemI, State.withFeed_loadRegs]
    exact withBlock_onResult _ _ (raise_withFeed f s) rfl
  | _ => rfl

theorem beforeFetch_withFeed (s : State) :
    (s.withFeed f).beforeFetch = s.beforeFetch.map (onResult (·.withFeed f)) := by
  have hinit : (s.withFeed f).init = s.init := rfl
  have hfault : (s.withFeed f).fault = s.fault := rfl
  have hhalted : (s.withFeed f).halted = s.halted := rfl
  simp only [State.beforeFetch, hinit, hfault, hhalted]
  split_ifs <;> rfl

/-- A tick that fetches no `CXNN` does not see the supplied bytes and leaves them (R70, R72). -/
theorem step_withFeed {s : State} (hfetch : ∀ x nn, s.fetch ≠ .ok (.rndVxNn x nn)) :
    step (s.withFeed f) = onResult (·.withFeed f) (step s) := by
  have hsame : (s.withFeed f).fetch = s.fetch := rfl
  simp only [step, beforeFetch_withFeed, hsame]
  cases s.beforeFetch with
  | some r => rfl
  | none =>
    cases h : s.fetch with
    | error e => exact raise_withFeed f s.advance _ _
    | ok i => exact exec_withFeed f (fun x nn hi => hfetch x nn (hi ▸ h)) s.advance

end Feed

/-- A Tick is the tick with its byte supplied, and then the bytes of later draws again (R235). -/
theorem tickWith_eq (rnd : Byte) (s : State) :
    tickWith rnd s = onResult (·.withFeed s.rndFeed) (step (s.withFeed [rnd])) := by
  unfold tickWith
  cases step (s.withFeed [rnd]) <;> rfl

/-- Supplying bytes twice is supplying the second ones. -/
theorem onResult_withFeed_withFeed (f f' : List Byte) (r : Result) :
    onResult (·.withFeed f') (onResult (·.withFeed f) r) = onResult (·.withFeed f') r := by
  cases r with
  | next t => rfl
  | fault c => cases c <;> rfl
  | refused c => rfl

/-- A Tick that fetches no `CXNN` is the tick without its byte (R70, R72). -/
theorem hostEvent_tick_of_not_rnd {s : State} (hfetch : ∀ x nn, s.fetch ≠ .ok (.rndVxNn x nn)) (rnd : Byte) :
    hostEvent (.tick rnd) s = onResult (·.withFeed s.rndFeed) (step s) := by
  rw [hostEvent, tickWith_eq, step_withFeed _ hfetch, onResult_withFeed_withFeed]

/-- Settles O26: both Ticks are the tick without a byte (`hostEvent_tick_of_not_rnd`). -/
theorem otherTicksIgnoreTheRandomByte : Obligations.OtherTicksIgnoreTheRandomByte :=
  fun _ r r' hfetch => (hostEvent_tick_of_not_rnd hfetch r).trans (hostEvent_tick_of_not_rnd hfetch r').symm

end Sys2Proof.Machine
end

/-! ## Control transfer

A jump and a skip replace `pc` and nothing else (`exec_of_skip`); a call and a return are told apart by the stack: room or none
(`stackFull_iff`), an entry or none. -/

section
namespace Sys2Proof.Machine

/-! ### The words, digit by digit -/

/-- A word decodes to the instruction it encodes. -/
theorem decodeWord_of_encodeWord {i : Instr} {w : Word} (h : encodeWord i = w) : decodeWord w = .ok i :=
  h ▸ decodeWord_encodeWord i

/-- In families 5 and 9 the last digit is fixed: with any other one the word is no instruction (R67, D10). -/
theorem decodeWord_ne_ok_of_last_digit {f n : BitVec 4} (hf : f = 5 ∨ f = 9) (hn : n ≠ 0) (x y : BitVec 4) (i : Instr) :
    decodeWord (f ++ x ++ y ++ n) ≠ .ok i := by
  intro h
  have hfamilies := (wordsThatDecode f x y n).1 ⟨i, h⟩
  refine hn ?_
  rcases hf with rfl | rfl
  · simpa using hfamilies
  · simpa using hfamilies

/-! ### Jumps -/

/-- The target of a jump is its twelve bits under a zero digit (R102). -/
theorem addressOf_eq_append (nnn : Addr12) : addressOf nnn = 0#4 ++ nnn := BitVec.setWidth_eq_append (by decide)

/-- The sum of `BNNN` is below `2 ^ 16`: it is not reduced (R104). -/
theorem offsetTarget_toNat (s : State) (nnn : Addr12) : (s.offsetTarget nnn).toNat = nnn.toNat + (s.reg 0).toNat := by
  have hn := nnn.isLt
  have hv := (s.reg 0).isLt
  rw [State.offsetTarget, BitVec.toNat_ofNat]
  omega

/-- A jump to `PEND` or past it halts: the next tick changes nothing (R24, R102, R104). -/
theorem step_setPc_of_pend_le {s : State} {w : Word} (hinit : s.init = true) (hfault : s.fault = none)
    (hw : s.pend ≤ w.toNat) : step (s.setPc w) = .next (s.setPc w) :=
  step_of_goodEnd ⟨hinit, hfault, hw⟩

/-- Settles O12: each jump answers `s.setPc` of its target. -/
theorem jumpsReplacePc : Obligations.JumpsReplacePc := fun nnn s =>
  ⟨⟨decodeWord_of_encodeWord (packNnn_eq 1 nnn),
      s.setPc (addressOf nnn), rfl, addressOf_eq_append nnn, rfl, State.setPc_byteAt s _, step_setPc_of_pend_le⟩,
    ⟨decodeWord_of_encodeWord (packNnn_eq 0xB nnn),
      s.setPc (s.offsetTarget nnn), rfl, offsetTarget_toNat s nnn, rfl, State.setPc_byteAt s _, step_setPc_of_pend_le⟩⟩

/-! ### Call and return -/

/-- The stack is full when its depth is finite and used up (R204, D3). -/
theorem stackFull_iff {s : State} : s.stackFull = true ↔ ∃ n, s.cfg.stackDepth = some n ∧ n ≤ s.stack.length := by
  unfold State.stackFull
  cases s.cfg.stackDepth with
  | none => simp
  | some n => simp

/-- A call with room on the stack pushes the advanced `pc` and jumps (R103). -/
theorem exec_call_of_room {s : State} (h : s.stackFull = false) (nnn : Addr12) :
    exec (.call nnn) s = .next ((s.push s.pc).setPc (addressOf nnn)) := by
  simp [exec, execCall, h]

/-- A call on a full stack raises `StackOverflow` before it pushes (R204). -/
theorem exec_call_of_full {s : State} (h : s.stackFull = true) (nnn : Addr12) :
    exec (.call nnn) s = raise .stackOverflow 0 s := by
  simp [exec, execCall, h]

/-- A return on an empty stack raises `StackUnderflow` (R101, R202). -/
theorem exec_ret_of_empty {s : State} (h : s.stack = []) : exec .ret s = raise .stackUnderflow 0 s := by
  simp [exec, execRet, h]

/-- Settles O13: the two clauses are the call with room and the call on a full stack. -/
theorem callPushesReturnAddress : Obligations.CallPushesReturnAddress := by
  refine fun nnn s => ⟨decodeWord_of_encodeWord (packNnn_eq 2 nnn), fun hroom => ?room, fun n hdepth hlen => ?full⟩
  case room =>
    have hfull : s.stackFull = false := by
      rw [← Bool.not_eq_true, stackFull_iff]
      exact fun ⟨n, hdepth, hlen⟩ => absurd (hroom n hdepth) (Nat.not_lt_of_le hlen)
    exact ⟨_, exec_call_of_room hfull nnn, rfl, addressOf_eq_append nnn, rfl, fun _ => rfl⟩
  case full => exact exec_call_of_full (stackFull_iff.2 ⟨n, hdepth, hlen⟩) nnn

/-- Settles O14: the two clauses are the return on a stack with an entry and on an empty one. -/
theorem returnPopsOrUnderflows : Obligations.ReturnPopsOrUnderflows :=
  ⟨decodeWord_of_encodeWord (i := .ret) rfl,
    fun _ => ⟨fun _ _ hstack => ⟨_, exec_ret_of_stack hstack, rfl, rfl, rfl, fun _ => rfl⟩, exec_ret_of_empty⟩⟩

/-! ### Skips -/

/-- A skip writes `pc` only. -/
theorem State.skipIf_eq (s : State) (c : Bool) : s.skipIf c = { s with pc := (s.skipIf c).pc } := by cases c <;> rfl

/-- An instruction that skips when `p` holds completes 2 further on exactly then, and changes nothing else (R105 to R108). -/
theorem exec_of_skip {i : Instr} {s : State} {c : Bool} {p : Prop} [Decidable p]
    (hexec : exec i s = .next (s.skipIf c)) (hc : c = true ↔ p) :
    ∃ t, exec i s = .next t ∧ t.pc = (if p then s.pc + 2 else s.pc) ∧ t = { s with pc := t.pc } ∧ SameBytes s t :=
  ⟨_, hexec, (State.skipIf_pc s c).trans (if_congr hc rfl rfl), State.skipIf_eq s c, State.skipIf_byteAt s c⟩

/-- Settles O16: the two skips test `V[X]` against `NN` (`exec_of_skip`). -/
theorem skipsOnImmediate : Obligations.SkipsOnImmediate := fun x nn _ =>
  ⟨⟨decodeWord_of_encodeWord (packXNn_eq 3 x nn), exec_of_skip rfl beq_iff_eq⟩,
    ⟨decodeWord_of_encodeWord (packXNn_eq 4 x nn), exec_of_skip rfl bne_iff_ne⟩⟩

/-- Settles O17: the two skips test `V[X]` against `V[Y]` (`exec_of_skip`); the last digit of their words is fixed. -/
theorem skipsOnRegisters : Obligations.SkipsOnRegisters := fun x y _ =>
  ⟨⟨decodeWord_of_encodeWord (packXY_eq 5 0 x y),
      fun _ hn => decodeWord_ne_ok_of_last_digit (.inl rfl) hn (nibble x) (nibble y), exec_of_skip rfl beq_iff_eq⟩,
    ⟨decodeWord_of_encodeWord (packXY_eq 9 0 x y),
      fun _ hn => decodeWord_ne_ok_of_last_digit (.inr rfl) hn (nibble x) (nibble y), exec_of_skip rfl bne_iff_ne⟩⟩

end Sys2Proof.Machine
end

/-! ## Arithmetic, logic, shifts, random

An instruction of the family writes one register, or a result and then the flag, or draws a byte and writes one register
(`exec_alu_cases`). What a write leaves alone is said once for each (`setReg_frame`, `setRegFlag_frame`); what the result and the
flag are together is a fact about two bytes. -/

section
namespace Sys2Proof.Machine

/-! ### What a write leaves alone -/

/-- A register write leaves the other registers and all else as they were (R10). -/
theorem State.setReg_frame (s : State) (x : Reg) (b : Byte) :
    (∀ r, r ≠ x → (s.setReg x b).reg r = s.reg r) ∧ s.setReg x b = { s with v := (s.setReg x b).v } ∧
      SameBytes s (s.setReg x b) :=
  ⟨fun _ hr => (State.reg_setReg ..).trans (if_neg hr), rfl, State.setReg_byteAt s x b⟩

/-- A result with its flag leaves the registers other than its destination and VF, and all else, as they were (R121). -/
theorem State.setRegFlag_frame (s : State) (x : Reg) (b : Byte) (c : Bool) :
    (∀ r, r ≠ x → r ≠ 15 → (s.setRegFlag x b c).reg r = s.reg r) ∧
      s.setRegFlag x b c = { s with v := (s.setRegFlag x b c).v } ∧ SameBytes s (s.setRegFlag x b c) :=
  ⟨fun _ hx hf => (State.reg_setRegFlag ..).trans ((if_neg hf).trans (if_neg hx)), rfl, State.setRegFlag_byteAt s x b c⟩

/-- A draw and a register write change registers and the two fields that supply the random byte (R133, log 8). -/
theorem State.afterDraw_setReg_eq (s : State) (x : Reg) (b : Byte) :
    s.afterDraw.setReg x b =
      { s with v := (s.afterDraw.setReg x b).v, rndFeed := s.afterDraw.rndFeed, draws := s.afterDraw.draws } := by
  unfold State.afterDraw
  cases s.rndFeed <;> rfl

/-- A draw and a register write leave memory as it was (R133). -/
theorem State.afterDraw_setReg_sameBytes (s : State) (x : Reg) (b : Byte) : SameBytes s (s.afterDraw.setReg x b) :=
  s.afterDraw_byteAt

/-! ### What the family does -/

/-- An instruction of the family completes, in one of three ways (R120). -/
theorem exec_alu_cases {i : Instr} (h : isAlu i = true) (s : State) :
    (∃ x b, exec i s = .next (s.setReg x b)) ∨ (∃ x b c, exec i s = .next (s.setRegFlag x b c)) ∨
      ∃ x b, exec i s = .next (s.afterDraw.setReg x b) := by
  cases i with
  | ldVxNn x _ | addVxNn x _ | ldVxVy x _ => exact .inl ⟨x, _, rfl⟩
  | orVxVy x _ | andVxVy x _ | xorVxVy x _ | addVxVy x _ | subVxVy x _ | shrVxVy x _ | subnVxVy x _ | shlVxVy x _ =>
    exact .inr (.inl ⟨x, _, _, rfl⟩)
  | rndVxNn x _ => exact .inr (.inr ⟨x, _, rfl⟩)
  | _ => cases h

/-- Settles O27: each of the three ways to complete (`exec_alu_cases`) has its frame. -/
theorem aluNeverFaults : Obligations.AluNeverFaults := by
  intro i s h
  rcases exec_alu_cases h s with ⟨x, b, hexec⟩ | ⟨x, b, c, hexec⟩ | ⟨x, b, hexec⟩
  · exact ⟨_, hexec, rfl, s.setReg_byteAt x b⟩
  · exact ⟨_, hexec, rfl, s.setRegFlag_byteAt x b c⟩
  · exact ⟨_, hexec, s.afterDraw_setReg_eq x b, s.afterDraw_setReg_sameBytes x b⟩

/-! ### One register written -/

/-- A register that was written holds the byte written (R10). -/
theorem State.reg_setReg_same (s : State) (x : Reg) (b : Byte) : (s.setReg x b).reg x = b :=
  (State.reg_setReg ..).trans (if_pos rfl)

/-- Settles O18: each of the two writes its destination (`setReg_frame`). -/
theorem loadsAndMoves : Obligations.LoadsAndMoves := fun x y nn s =>
  ⟨⟨decodeWord_of_encodeWord (packXNn_eq 6 x nn), _, rfl, s.reg_setReg_same x nn, s.setReg_frame x nn⟩,
    ⟨decodeWord_of_encodeWord (packXY_eq 8 0 x y), _, rfl, s.reg_setReg_same x (s.reg y), s.setReg_frame x (s.reg y)⟩⟩

/-- Settles O19: the byte written is the sum modulo 256, and no flag is (`setReg_frame`). -/
theorem addImmediateLosesTheCarry : Obligations.AddImmediateLosesTheCarry := fun x nn s =>
  ⟨decodeWord_of_encodeWord (packXNn_eq 7 x nn), _, rfl,
    (congrArg BitVec.toNat (s.reg_setReg_same x _)).trans (BitVec.toNat_ofNat _ 8), s.setReg_frame x _⟩

/-- Settles O24: the byte written is `NN AND rnd`, and `rnd` is the first byte supplied. -/
theorem randomUnderMask : Obligations.RandomUnderMask := by
  intro x nn s
  obtain ⟨hothers, -, -⟩ := s.afterDraw.setReg_frame x (nn &&& s.rnd)
  have hx : (s.afterDraw.setReg x (nn &&& s.rnd)).reg x = nn &&& s.rnd := State.reg_setReg_same ..
  refine ⟨decodeWord_of_encodeWord (packXNn_eq 0xC x nn), _, rfl, ?masked, ?supplied, ?others,
    s.afterDraw_setReg_eq x _, s.afterDraw_setReg_sameBytes x _⟩
  case masked =>
    intro k hk
    rw [hx, BitVec.getLsbD_and, hk, Bool.false_and]
  case supplied =>
    intro rnd later hfeed
    have hrnd : s.rnd = rnd := by simp only [State.rnd, hfeed]
    have hlater : s.afterDraw.rndFeed = later := by simp only [State.afterDraw, hfeed]
    exact ⟨hx.trans (congrArg (nn &&& ·) hrnd), hlater⟩
  case others => exact fun r hr => (hothers r hr).trans (s.afterDraw_reg r)

/-! ### A result and its flag -/

/-- VF holds the flag, whichever register the result goes to (R121 (c), D14). -/
theorem State.reg_setRegFlag_flag (s : State) (x : Reg) (b : Byte) (c : Bool) :
    (s.setRegFlag x b c).reg 15 = flagByte c :=
  (State.reg_setRegFlag ..).trans (if_pos rfl)

/-- The destination holds the result unless it is VF (R121). -/
theorem State.reg_setRegFlag_result (s : State) {x : Reg} (hx : x ≠ 15) (b : Byte) (c : Bool) :
    (s.setRegFlag x b c).reg x = b :=
  (State.reg_setRegFlag ..).trans ((if_neg hx).trans (if_pos rfl))

/-- An instruction that writes a result with flag 0 completes with VF 0 and the bits of the result (R125 to R127). -/
theorem exec_of_logic {i : Instr} {s : State} {x : Reg} {b : Byte} {bit : Nat → Bool}
    (hexec : exec i s = .next (s.setRegFlag x b false))
    (hbit : ∀ k, b.getLsbD k = bit k) :
    ∃ t, exec i s = .next t ∧ t.reg 15 = 0 ∧ (x ≠ 15 → ∀ k < 8, (t.reg x).getLsbD k = bit k) ∧
      (∀ r, r ≠ x → r ≠ 15 → t.reg r = s.reg r) ∧ t = { s with v := t.v } ∧ SameBytes s t :=
  ⟨_, hexec, s.reg_setRegFlag_flag x b false,
    fun hx k _ => by rw [s.reg_setRegFlag_result hx, hbit], s.setRegFlag_frame x b false⟩

/-- Settles O20: the three write a bitwise result with flag 0 (`exec_of_logic`). -/
theorem logicForcesVfToZero : Obligations.LogicForcesVfToZero := fun x y _ =>
  ⟨⟨decodeWord_of_encodeWord (packXY_eq 8 1 x y), exec_of_logic rfl fun _ => BitVec.getLsbD_or⟩,
    ⟨decodeWord_of_encodeWord (packXY_eq 8 2 x y), exec_of_logic rfl fun _ => BitVec.getLsbD_and⟩,
    ⟨decodeWord_of_encodeWord (packXY_eq 8 3 x y), exec_of_logic rfl fun _ => BitVec.getLsbD_xor⟩⟩

/-- An instruction that writes a result with its flag completes with the two numbers in `V[X]` and VF (R121). -/
theorem exec_of_setRegFlag {i : Instr} {s : State} {x : Reg} {b : Byte} {c : Bool}
    (hexec : exec i s = .next (s.setRegFlag x b c)) :
    ∃ t, exec i s = .next t ∧ (t.reg 15).toNat = c.toNat ∧ (x ≠ 15 → (t.reg x).toNat = b.toNat) ∧
      (∀ r, r ≠ x → r ≠ 15 → t.reg r = s.reg r) ∧ t = { s with v := t.v } ∧ SameBytes s t :=
  ⟨_, hexec, by rw [s.reg_setRegFlag_flag, flagByte_toNat], fun hx => by rw [s.reg_setRegFlag_result hx],
    s.setRegFlag_frame x b c⟩

/-! ### Sum and difference -/

theorem carryOut_toNat (a b : Byte) : (carryOut a b).toNat = if a.toNat + b.toNat > 255 then 1 else 0 :=
  Bool.cond_decide ..

theorem noBorrow_toNat (a b : Byte) : (noBorrow a b).toNat = if a.toNat ≥ b.toNat then 1 else 0 :=
  Bool.cond_decide ..

/-- The sum modulo 256 and the carry make up the exact sum (R128). -/
theorem sum_add_carryOut (a b : Byte) :
    (BitVec.ofNat 8 (a.toNat + b.toNat)).toNat + 256 * (carryOut a b).toNat = a.toNat + b.toNat := by
  have ha := a.isLt
  have hb := b.isLt
  rw [BitVec.toNat_ofNat, carryOut_toNat]
  split <;> omega

/-- The difference modulo 256 falls short of the exact one by 256 exactly when there is a borrow (R129, R131). -/
theorem difference_add_noBorrow (a b : Byte) :
    (BitVec.ofInt 8 (a.toNat - b.toNat)).toNat + b.toNat + 256 * (noBorrow a b).toNat = a.toNat + 256 := by
  have ha := a.isLt
  have hb := b.isLt
  rw [BitVec.toNat_ofInt, noBorrow_toNat]
  split <;> omega

/-- Settles O21: the result and the carry are the exact sum (`sum_add_carryOut`). -/
theorem addSetsCarry : Obligations.AddSetsCarry := by
  refine fun x y s => ⟨decodeWord_of_encodeWord (packXY_eq 8 4 x y), ?_⟩
  obtain ⟨t, hexec, hflag, hresult, hframe⟩ := exec_of_setRegFlag (i := .addVxVy x y) (s := s) rfl
  exact ⟨t, hexec, hflag.trans (carryOut_toNat ..), fun hx => by rw [hresult hx, hflag, sum_add_carryOut], hframe⟩

/-- An instruction that writes `a − b` with its not-borrow completes with the difference and the flag (R129, R131). -/
theorem exec_of_difference {i : Instr} {s : State} {x : Reg} {a b : Byte}
    (hexec : exec i s = .next (s.setRegFlag x (BitVec.ofInt 8 (a.toNat - b.toNat)) (noBorrow a b))) :
    ∃ t, exec i s = .next t ∧ (t.reg 15).toNat = (if a.toNat ≥ b.toNat then 1 else 0) ∧
      (x ≠ 15 → (t.reg x).toNat + b.toNat + 256 * (t.reg 15).toNat = a.toNat + 256) ∧
      (∀ r, r ≠ x → r ≠ 15 → t.reg r = s.reg r) ∧ t = { s with v := t.v } ∧ SameBytes s t := by
  obtain ⟨t, hexec, hflag, hresult, hframe⟩ := exec_of_setRegFlag hexec
  exact ⟨t, hexec, hflag.trans (noBorrow_toNat ..),
    fun hx => by rw [hresult hx, hflag, difference_add_noBorrow], hframe⟩

/-- Settles O22: the two write a difference, with the operands exchanged (`exec_of_difference`). -/
theorem subtractsSetNotBorrow : Obligations.SubtractsSetNotBorrow := fun x y _ =>
  ⟨⟨decodeWord_of_encodeWord (packXY_eq 8 5 x y), exec_of_difference rfl⟩,
    ⟨decodeWord_of_encodeWord (packXY_eq 8 7 x y), exec_of_difference rfl⟩⟩

/-! ### Shifts -/

theorem bitOutRight_toNat (t : Byte) : (bitOutRight t).toNat = t.toNat % 2 := by
  rw [bitOutRight, BitVec.getLsbD, Nat.toNat_testBit, Nat.pow_zero, Nat.div_one]

theorem bitOutLeft_toNat (t : Byte) : (bitOutLeft t).toNat = t.toNat / 128 := by
  have ht := t.isLt
  rw [bitOutLeft, BitVec.getLsbD, Nat.toNat_testBit]
  omega

/-- Twice the half and the bit shifted out make up the value (R130). -/
theorem half_add_bitOutRight (t : Byte) : 2 * (BitVec.ofNat 8 (t.toNat / 2)).toNat + (bitOutRight t).toNat = t.toNat := by
  have ht := t.isLt
  rw [BitVec.toNat_ofNat, bitOutRight_toNat]
  omega

/-- The double modulo 256 and the bit shifted out make up the double (R132). -/
theorem double_add_bitOutLeft (t : Byte) : (BitVec.ofNat 8 (2 * t.toNat)).toNat + 256 * (bitOutLeft t).toNat = 2 * t.toNat := by
  have ht := t.isLt
  rw [BitVec.toNat_ofNat, bitOutLeft_toNat]
  omega

/-- Settles O23: the value shifted is `shiftSource`; the result and the bit out make it up (`half_add_bitOutRight`) or its double
(`double_add_bitOutLeft`). -/
theorem shiftsByOne : Obligations.ShiftsByOne := by
  intro x y s t0 ht0
  obtain rfl : t0 = s.shiftSource x y := ht0
  refine ⟨⟨decodeWord_of_encodeWord (packXY_eq 8 6 x y), ?right⟩, ⟨decodeWord_of_encodeWord (packXY_eq 8 0xE x y), ?left⟩⟩
  case right =>
    obtain ⟨t, hexec, hflag, hresult, hframe⟩ := exec_of_setRegFlag (i := .shrVxVy x y) (s := s) rfl
    exact ⟨t, hexec, hflag.trans (bitOutRight_toNat _),
      fun hx => by rw [hresult hx, hflag, half_add_bitOutRight], hframe⟩
  case left =>
    obtain ⟨t, hexec, hflag, hresult, hframe⟩ := exec_of_setRegFlag (i := .shlVxVy x y) (s := s) rfl
    exact ⟨t, hexec, hflag.trans (bitOutLeft_toNat _),
      fun hx => by rw [hresult hx, hflag, double_add_bitOutLeft], hframe⟩

end Sys2Proof.Machine
end

/-! ## Index register and memory

Three instructions compute a new `I`; the other three check their block and then store or load it (`exec_ldBVx_of_lt`,
`exec_ldMemIVx_of_lt`, `exec_ldVxMemI_of_lt`). What a block write and a block read do, and what they leave alone, is said once for
each. -/

section
namespace Sys2Proof.Machine

/-! ### The index register -/

/-- Settles O28: the immediate under a zero digit goes to `I` (`addressOf_eq_append`). -/
theorem loadIndex : Obligations.LoadIndex := fun nnn s =>
  ⟨decodeWord_of_encodeWord (packNnn_eq 0xA nnn), s.setI (addressOf nnn), rfl, addressOf_eq_append nnn, rfl, s.setI_byteAt _⟩

theorem pastAddressSpace_toNat (i : Word) (a : Byte) :
    (pastAddressSpace i a).toNat = if i.toNat + a.toNat > 0xFFF then 1 else 0 :=
  Bool.cond_decide ..

/-- Settles O29: `I` is written, and then the flag as a register write, whose frame is that of `setReg_frame`. -/
theorem addToIndexFlagsOverflow : Obligations.AddToIndexFlagsOverflow := by
  intro x s
  set flag := pastAddressSpace s.i (s.reg x) with hflag
  set moved := s.setI (BitVec.ofNat 16 (s.i.toNat + (s.reg x).toNat))
  obtain ⟨hothers, -, -⟩ := moved.setReg_frame 15 (flagByte flag)
  refine ⟨decodeWord_of_encodeWord (packX_eq 0xF 1 0xE x), moved.setFlag flag, rfl, BitVec.toNat_ofNat _ 16, ?flag,
    hothers, rfl, fun _ => rfl⟩
  case flag =>
    have hvf : (moved.setFlag flag).reg 15 = flagByte flag := State.reg_setReg_same ..
    rw [hvf, flagByte_toNat, hflag, pastAddressSpace_toNat]

/-- The address of a glyph is below `2 ^ 16`: it is not reduced (R143, D17). -/
theorem glyphAddress_toNat (s : State) (x : Reg) : (s.glyphAddress x).toNat = 0x50 + 5 * (s.reg x).toNat := by
  have hv := (s.reg x).isLt
  rw [State.glyphAddress, BitVec.toNat_ofNat]
  unfold fontBase fontStride
  omega

/-- Settles O30: byte `k` of glyph `V[X]` is byte `5·V[X] + k` of the font (`glyphAddress_toNat`). -/
theorem glyphAddress : Obligations.GlyphAddress := by
  intro x s
  have hi : (s.setI (s.glyphAddress x)).i.toNat = 0x50 + 5 * (s.reg x).toNat := glyphAddress_toNat s x
  refine ⟨decodeWord_of_encodeWord (packX_eq 0xF 2 9 x), s.setI (s.glyphAddress x), rfl, hi, rfl, s.setI_byteAt _,
    fun hfont k _ h => ?_⟩
  rw [hi, State.setI_byteAt, Nat.add_assoc]
  exact hfont (5 * (s.reg x).toNat + k) h

/-! ### Writing a block -/

/-- Byte `k` of a block that was written reads as element `k` of the list (R140). -/
theorem State.byteAt_setBytes_of_getElem? {bs : List Byte} {k : Nat} {b : Byte} (h : bs[k]? = some b) (s : State) (a : Nat) :
    (s.setBytes a bs).byteAt (a + k) = b := by
  simp [State.byteAt_setBytes, h]

/-- Writing a block leaves the bytes outside it as they were (R140). -/
theorem State.setBytes_sameBytesOutside (s : State) (a : Nat) (bs : List Byte) :
    SameBytesOutside s (s.setBytes a bs) a bs.length := by
  intro j hj
  rw [State.byteAt_setBytes]
  split
  case isTrue hle =>
    have hnone : bs[j - a]? = none := List.getElem?_eq_none (by omega)
    rw [hnone, Option.getD_none]
  case isFalse => rfl

/-- The three digits, hundreds first, make up the byte, and the last two are decimal digits (R144). -/
theorem decimalDigits_spec (b : Byte) : ∃ hundreds tens ones : Byte, decimalDigits b = [hundreds, tens, ones] ∧
    100 * hundreds.toNat + 10 * tens.toNat + ones.toNat = b.toNat ∧ tens.toNat ≤ 9 ∧ ones.toNat ≤ 9 := by
  have hb := b.isLt
  refine ⟨_, _, _, rfl, ?_⟩
  rw [BitVec.toNat_ofNat, BitVec.toNat_ofNat, BitVec.toNat_ofNat]
  omega

/-- `FX33` inside memory completes (R144). -/
theorem exec_ldBVx_of_lt {s : State} (h : s.i.toNat + 2 < 4096) (x : Reg) :
    exec (.ldBVx x) s = .next (s.setBytes s.i.toNat (decimalDigits (s.reg x))) :=
  withBlock_of_le _ (.inr h)

/-- Settles O31: the block written is the three digits (`decimalDigits_spec`). -/
theorem digitsAreStored : Obligations.DigitsAreStored := by
  refine fun x s => ⟨decodeWord_of_encodeWord (packX_eq 0xF 3 3 x), fun hblock => ?_⟩
  obtain ⟨hundreds, tens, ones, hdigits, hsum, htens, hones⟩ := decimalDigits_spec (s.reg x)
  refine ⟨_, exec_ldBVx_of_lt hblock x, ?_⟩
  rw [hdigits]
  set t := s.setBytes s.i.toNat [hundreds, tens, ones]
  have hbyte0 : t.byteAt s.i.toNat = hundreds := State.byteAt_setBytes_of_getElem? (k := 0) rfl s _
  have hbyte1 : t.byteAt (s.i.toNat + 1) = tens := State.byteAt_setBytes_of_getElem? rfl s _
  have hbyte2 : t.byteAt (s.i.toNat + 2) = ones := State.byteAt_setBytes_of_getElem? rfl s _
  rw [hbyte0, hbyte1, hbyte2]
  exact ⟨hsum, htens, hones, s.setBytes_sameBytesOutside _ _, s.setBytes_eq _ _⟩

/-! ### Storing and loading registers -/

/-- `I` after a block inside memory is below `2 ^ 16`: it is not reduced (R145, R146, D37). -/
theorem indexAfterBlock_toNat {s : State} {x : Reg} (h : s.i.toNat + x.val < 4096) :
    (s.indexAfterBlock x).toNat = if s.cfg.storeLoadIncrement then s.i.toNat + x.val + 1 else s.i.toNat := by
  unfold State.indexAfterBlock
  split
  · rw [BitVec.toNat_ofNat]
    omega
  · rfl

theorem State.regsUpTo_length (s : State) (x : Reg) : (s.regsUpTo x).length = x.val + 1 := by
  rw [State.regsUpTo, List.length_take, Vector.length_toList]
  omega

/-- Settles O32: the block written is the registers (`byteAt_setBytes_regsUpTo`), and it is `X + 1` bytes long. -/
theorem registersAreStored : Obligations.RegistersAreStored := by
  refine fun x s => ⟨decodeWord_of_encodeWord (packX_eq 0xF 5 5 x), fun hblock => ?_⟩
  have houtside := s.setBytes_sameBytesOutside s.i.toNat (s.regsUpTo x)
  rw [s.regsUpTo_length] at houtside
  exact ⟨_, exec_ldMemIVx_of_lt hblock, fun r hr => s.byteAt_setBytes_regsUpTo s.i.toNat hr, houtside,
    indexAfterBlock_toNat hblock, congrArg (State.setI · (s.indexAfterBlock x)) (s.setBytes_eq _ _)⟩

/-- `FX65` inside memory completes (R146). -/
theorem exec_ldVxMemI_of_lt {s : State} {x : Reg} (h : s.i.toNat + x.val < 4096) :
    exec (.ldVxMemI x) s = .next ((s.loadRegs (x.val + 1)).setI (s.indexAfterBlock x)) :=
  withBlock_of_le _ (.inr h)

/-- A register up to `V[x]` holds its byte of the block loaded (R146). -/
theorem State.reg_loadRegs_of_le (s : State) {x r : Reg} (h : r ≤ x) :
    (s.loadRegs (x.val + 1)).reg r = s.byteAt (s.i.toNat + r.val) :=
  (s.reg_loadRegs _ r).trans (if_pos (Nat.lt_succ_of_le h))

/-- A register above `V[x]` is not loaded (R146). -/
theorem State.reg_loadRegs_of_lt (s : State) {x r : Reg} (h : x < r) : (s.loadRegs (x.val + 1)).reg r = s.reg r :=
  (s.reg_loadRegs _ r).trans (if_neg (Nat.not_lt_of_le h))

/-- Settles O33: the registers are loaded up to `V[X]` (`reg_loadRegs_of_le`) and not above (`reg_loadRegs_of_lt`). -/
theorem registersAreLoaded : Obligations.RegistersAreLoaded := fun x s =>
  ⟨decodeWord_of_encodeWord (packX_eq 0xF 6 5 x), fun hblock =>
    ⟨_, exec_ldVxMemI_of_lt hblock, fun _ hr => s.reg_loadRegs_of_le hr, fun _ hr => s.reg_loadRegs_of_lt hr,
      indexAfterBlock_toNat hblock, congrArg (State.setI · (s.indexAfterBlock x)) (s.loadRegs_eq _), s.loadRegs_byteAt _⟩⟩

/-- Where `I` ends is settled by `I` and the quirk option alone (R145, R146, D37). -/
theorem indexAfterBlock_congr {s t : State} (hi : t.i = s.i) (hcfg : t.cfg = s.cfg) (x : Reg) :
    t.indexAfterBlock x = s.indexAfterBlock x := by
  unfold State.indexAfterBlock
  rw [hi, hcfg]

/-- Settles O34: the state in between has the old `I` and the stored block, so each register loaded is the one stored
(`byteAt_setBytes_regsUpTo`). -/
theorem storeThenLoadGivesRegistersBack : Obligations.StoreThenLoadGivesRegistersBack := by
  intro x s v' hblock
  set stored := (s.setBytes s.i.toNat (s.regsUpTo x)).setI (s.indexAfterBlock x)
  set between : State := { stored with v := v', i := s.i }
  have hcfg : between.cfg = s.cfg := s.setBytes_cfg _ _
  refine ⟨stored, _, exec_ldMemIVx_of_lt hblock, exec_ldVxMemI_of_lt (s := between) hblock, fun r hr => ?below,
    fun r hr => between.reg_loadRegs_of_lt hr, indexAfterBlock_congr (s := s) (t := between) rfl hcfg x⟩
  case below =>
    calc (between.loadRegs (x.val + 1)).reg r
      _ = between.byteAt (s.i.toNat + r.val) := between.reg_loadRegs_of_le hr
      _ = s.reg r := s.byteAt_setBytes_regsUpTo s.i.toNat hr

end Sys2Proof.Machine
end

/-! ## The display

A draw toggles the cells of `drawnPixels`. They are the covered cells (`mem_drawnPixels`), and no two set bits of a sprite land on
one cell (`nodup_drawnPixels`), so each of them is toggled once and the collision flag is that of the display before the draw. -/

section
namespace Sys2Proof.Machine

/-! ### Clearing, and the frame of the two instructions -/

theorem cellAt_clearDisplay (p : Pixel) : cellAt clearDisplay p = false := by
  simp [cellAt, clearDisplay]

/-- Settles O37: every cell of the display written is 0 (`cellAt_clearDisplay`). -/
theorem clearDisplay_holds : Obligations.ClearDisplay :=
  ⟨decodeWord_of_encodeWord (i := .cls) rfl, fun _ => ⟨_, rfl, cellAt_clearDisplay, rfl, fun _ => rfl⟩⟩

/-- A draw with `DRF` clear goes back to `this_pc`, before any check of its block (R163). -/
theorem exec_drwVxVyN_of_not_drf {s : State} (h : s.drf = false) (x y : Reg) (n : Fin 16) :
    exec (.drwVxVyN x y n) s = .next s.rewind :=
  if_neg (Bool.not_eq_true _ ▸ h)

/-- Settles O39: the rewind writes `pc` only. -/
theorem drawWithoutFrameStalls : Obligations.DrawWithoutFrameStalls :=
  fun x y n _ hdrf => exec_drwVxVyN_of_not_drf hdrf x y n

/-- A draw that goes on has stalled, or its rows are inside memory and it has drawn (R162, R163). -/
theorem exec_drwVxVyN_next {x y : Reg} {n : Fin 16} {s t : State} (h : exec (.drwVxVyN x y n) s = .next t) :
    (s.drf = false ∧ t = s.rewind) ∨
      (s.drf = true ∧ (n.val = 0 ∨ s.i.toNat + n.val ≤ memSize) ∧ t = s.drawSprite x y n) := by
  cases hdrf : s.drf with
  | false =>
    rw [exec_drwVxVyN_of_not_drf hdrf] at h
    exact .inl ⟨rfl, (Host.Outcome.next.inj h).symm⟩
  | true =>
    rw [exec_drwVxVyN_of_drf hdrf] at h
    obtain ⟨hrows, hgo⟩ := withBlock_next h
    exact .inr ⟨rfl, hrows, (Host.Outcome.next.inj hgo).symm⟩

/-- `00E0` and `DXYN` write neither memory, `I`, the stack, the timers nor the key latch (R160). -/
theorem exec_display_frame {i : Instr} {s t : State} (hi : isDisplay i = true) (h : exec i s = .next t) :
    SameBytes s t ∧ t.i = s.i ∧ t.stack = s.stack ∧ t.dt = s.dt ∧ t.st = s.st ∧ t.key = s.key := by
  cases i with
  | cls =>
    obtain rfl := Host.Outcome.next.inj h
    exact ⟨fun _ => rfl, rfl, rfl, rfl, rfl, rfl⟩
  | drwVxVyN x y n =>
    rcases exec_drwVxVyN_next h with ⟨-, rfl⟩ | ⟨-, -, rfl⟩
    · exact ⟨s.rewind_byteAt, rfl, rfl, rfl, rfl, rfl⟩
    · exact ⟨s.drawSprite_byteAt x y n, rfl, rfl, rfl, rfl, rfl⟩
  | _ => cases hi

/-- The display is as it was after any instruction but `00E0` and `DXYN` (R160). -/
theorem disp_of_exec_next {i : Instr} {s t : State} (hi : isDisplay i = false) (h : exec i s = .next t) :
    t.disp = s.disp := by
  by_contra hne
  rcases (exec_next h).disp_writers hne with rfl | ⟨x, y, n, rfl, -⟩
  · cases hi
  · cases hi

/-- Settles O41: no other instruction observes the display (`exec_mapScreen`) or writes it (`disp_of_exec_next`), and the two have
their frame (`exec_display_frame`). -/
theorem onlyDisplayInstructionsTouchTheDisplay : Obligations.OnlyDisplayInstructionsTouchTheDisplay := fun _ s =>
  ⟨fun hi d => exec_mapScreen (fun _ => d) id hi s, fun hi _ => disp_of_exec_next hi, fun hi _ => exec_display_frame hi⟩

/-! ### Which cells a draw names -/

/-- The cell of column `c`, row `r` of a sprite: past the edges it is dropped with clipping, else wrapped (R162, R164, D18). -/
theorem spritePixel_eq_some {clip : Bool} {x0 y0 r c : Nat} {p : Pixel} :
    spritePixel clip x0 y0 r c = some p ↔
      if clip then x0 + c = p.1 ∧ y0 + r = p.2 else (x0 + c) % 64 = p.1 ∧ (y0 + r) % 32 = p.2 := by
  obtain ⟨⟨px, hx⟩, ⟨py, hy⟩⟩ := p
  cases clip with
  | false => simp [spritePixel]
  | true =>
    simp only [spritePixel, dispW, dispH, true_and, if_true, Option.ite_none_left_eq_some, not_or, not_le, Option.some.injEq,
      Prod.mk.injEq, Fin.mk.injEq]
    omega

/-- Different bits of one sprite land on different cells: a sprite is narrower and lower than the display (R162). -/
theorem spritePixel_injective {clip : Bool} {x0 y0 r r' c c' : Nat} {p : Pixel} (hr : r < 16) (hr' : r' < 16) (hc : c < 8)
    (hc' : c' < 8) (h : spritePixel clip x0 y0 r c = some p) (h' : spritePixel clip x0 y0 r' c' = some p) :
    r = r' ∧ c = c' := by
  rw [spritePixel_eq_some] at h h'
  cases clip with
  | false => simp only [Bool.false_eq_true, if_false] at h h'; omega
  | true => simp only [if_true] at h h'; omega

/-- The set bits of a row, and the cells they land on (R165, D19). -/
theorem mem_rowPixels {clip : Bool} {x0 y0 r : Nat} {b : Byte} {p : Pixel} :
    p ∈ rowPixels clip x0 y0 r b ↔ ∃ c < 8, b.getLsbD (7 - c) = true ∧ spritePixel clip x0 y0 r c = some p := by
  simp [rowPixels]

/-- A row lands on no cell twice. -/
theorem nodup_rowPixels {r : Nat} (hr : r < 16) (clip : Bool) (x0 y0 : Nat) (b : Byte) :
    (rowPixels clip x0 y0 r b).Nodup := by
  refine List.pairwise_filterMap.2 (List.nodup_range.imp_of_mem fun {c c'} hc hc' hne p hp p' hp' => ?_)
  rintro rfl
  obtain ⟨-, hp⟩ := Option.ite_none_right_eq_some.1 hp
  obtain ⟨-, hp'⟩ := Option.ite_none_right_eq_some.1 hp'
  exact hne (spritePixel_injective hr hr (List.mem_range.1 hc) (List.mem_range.1 hc') hp hp').2

/-- The rows of a sprite are the bytes from `I`, one after the other (R162). -/
theorem State.drawnPixels_eq (s : State) (x y : Reg) (n : Nat) :
    s.drawnPixels x y n = (List.range n).flatMap fun r =>
      rowPixels s.cfg.clipping ((s.reg x).toNat % dispW) ((s.reg y).toNat % dispH) r (s.byteAt (s.i.toNat + r)) := by
  have hrows : (s.bytesAt s.i.toNat n).zipIdx = (List.range n).map fun r => (s.byteAt (s.i.toNat + r), r) :=
    List.ext_getElem (by simp [State.bytesAt]) (by simp [State.bytesAt])
  rw [State.drawnPixels, spritePixels, hrows, List.flatMap_map]

/-- The cells a draw names are the covered ones (R162, R164, R165). -/
theorem State.mem_drawnPixels {s : State} {x y : Reg} {n : Nat} {p : Pixel} :
    p ∈ s.drawnPixels x y n ↔ s.Covers x y n p := by
  simp only [State.drawnPixels_eq, List.mem_flatMap, List.mem_range, mem_rowPixels, spritePixel_eq_some, State.Covers]

/-- A sprite lands on no cell twice. -/
theorem State.nodup_drawnPixels (s : State) (x y : Reg) (n : Fin 16) : (s.drawnPixels x y n).Nodup := by
  have hrow {r : Nat} (hr : r ∈ List.range n) : r < 16 := (List.mem_range.1 hr).trans n.isLt
  rw [State.drawnPixels_eq, List.nodup_flatMap]
  refine ⟨fun r hr => nodup_rowPixels (hrow hr) .., List.nodup_range.imp_of_mem fun hr hr' hne p hp hp' => ?_⟩
  obtain ⟨c, hc, -, hp⟩ := mem_rowPixels.1 hp
  obtain ⟨c', hc', -, hp'⟩ := mem_rowPixels.1 hp'
  exact hne (spritePixel_injective (hrow hr) (hrow hr') hc hc' hp hp').1

/-! ### What a draw does -/

/-- A draw toggles each cell it names once (R162). -/
theorem State.cellAt_drawSprite (s : State) (x y : Reg) (n : Fin 16) (p : Pixel) :
    cellAt (s.drawSprite x y n).disp p = (cellAt s.disp p ^^ decide (p ∈ s.drawnPixels x y n)) := by
  have hcell : cellAt (s.drawSprite x y n).disp p = (cellAt s.disp p ^^ ((s.drawnPixels x y n).count p % 2 == 1)) :=
    foldl_plot_cell ..
  rw [hcell, (s.nodup_drawnPixels x y n).count]
  by_cases hp : p ∈ s.drawnPixels x y n <;> simp [hp]

/-- A covered cell is toggled (R162). -/
theorem State.cellAt_drawSprite_of_covers {s : State} {x y : Reg} {n : Fin 16} {p : Pixel} (h : s.Covers x y n p) :
    cellAt (s.drawSprite x y n).disp p = !cellAt s.disp p := by
  simp [State.cellAt_drawSprite, State.mem_drawnPixels.2 h]

/-- A cell that is not covered is left (R162). -/
theorem State.cellAt_drawSprite_of_not_covers {s : State} {x y : Reg} {n : Fin 16} {p : Pixel} (h : ¬s.Covers x y n p) :
    cellAt (s.drawSprite x y n).disp p = cellAt s.disp p := by
  simp [State.cellAt_drawSprite, mt State.mem_drawnPixels.1 h]

theorem flagByte_eq_one {c : Bool} : flagByte c = 1 ↔ c = true := by cases c <;> decide

theorem flagByte_eq_zero {c : Bool} : flagByte c = 0 ↔ c = false := by cases c <;> decide

/-- VF is the collision flag: some cell drawn held 1 before (R162, R166). -/
theorem State.reg_drawSprite_flag (s : State) (x y : Reg) (n : Fin 16) :
    (s.drawSprite x y n).reg 15 = flagByte ((s.drawnPixels x y n).any (cellAt s.disp)) := by
  have hhit : (drawPixels s.disp (s.drawnPixels x y n)).2 = (s.drawnPixels x y n).any (cellAt s.disp) :=
    foldl_plot_hit _ (s.disp, false) (s.nodup_drawnPixels x y n)
  rw [← hhit]
  exact State.reg_setReg_same ..

/-- VF is 1 when a covered cell held 1 before (R166). -/
theorem State.reg_drawSprite_eq_one {s : State} {x y : Reg} {n : Fin 16} :
    (s.drawSprite x y n).reg 15 = 1 ↔ ∃ p, s.Covers x y n p ∧ cellAt s.disp p = true := by
  simp only [State.reg_drawSprite_flag, flagByte_eq_one, List.any_eq_true, State.mem_drawnPixels]

/-- VF is 0 when none did (R166). -/
theorem State.reg_drawSprite_eq_zero {s : State} {x y : Reg} {n : Fin 16} :
    (s.drawSprite x y n).reg 15 = 0 ↔ ¬∃ p, s.Covers x y n p ∧ cellAt s.disp p = true := by
  rw [← State.reg_drawSprite_eq_one, State.reg_drawSprite_flag, flagByte_eq_zero, flagByte_eq_one, Bool.not_eq_true]

/-- A draw with `DRF` set and its rows inside memory completes (R162). -/
theorem exec_drwVxVyN_of_le {s : State} {n : Fin 16} (hdrf : s.drf = true)
    (hrows : n.val = 0 ∨ s.i.toNat + n.val ≤ memSize) (x y : Reg) :
    exec (.drwVxVyN x y n) s = .next (s.drawSprite x y n) :=
  (exec_drwVxVyN_of_drf hdrf x y n).trans (withBlock_of_le _ hrows)

/-- Settles O38: the covered cells are those named, each once (`cellAt_drawSprite_of_covers`), and VF is the collision flag
(`reg_drawSprite_eq_one`). -/
theorem drawTogglesTheCoveredCells : Obligations.DrawTogglesTheCoveredCells := by
  refine fun x y n s => ⟨decodeWord_of_encodeWord (packXYN_eq 0xD x y n), fun hdrf hlast => ?_⟩
  have hrows : n.val = 0 ∨ s.i.toNat + n.val ≤ 4096 := by omega
  exact ⟨_, exec_drwVxVyN_of_le hdrf hrows x y, fun _ => State.cellAt_drawSprite_of_covers,
    fun _ => State.cellAt_drawSprite_of_not_covers, State.reg_drawSprite_eq_one.2, State.reg_drawSprite_eq_zero.2,
    fun _ hr => State.reg_drawSprite hr s x y n, rfl, s.drawSprite_byteAt x y n⟩

/-! ### Drawing twice -/

/-- Two displays with the same cells are the same. -/
theorem display_ext {d d' : Display} (h : ∀ p, cellAt d p = cellAt d' p) : d = d' :=
  Vector.ext fun y hy => BitVec.eq_of_getLsbD_eq fun x hx => h (⟨x, hx⟩, ⟨y, hy⟩)

/-- Which cells a draw covers is settled by the origin, the rows from `I` and the quirk option (R162, R164). -/
theorem State.covers_congr {s t : State} {x y x' y' : Reg} (n : Nat) (hcfg : t.cfg = s.cfg) (hi : t.i = s.i)
    (hbytes : SameBytes s t) (hx : (t.reg x').toNat % 64 = (s.reg x).toNat % 64)
    (hy : (t.reg y').toNat % 32 = (s.reg y).toNat % 32) (p : Pixel) : t.Covers x' y' n p ↔ s.Covers x y n p := by
  simp only [State.Covers, hcfg, hi, hbytes _, hx, hy]

/-- Settles O40: the second draw covers the same cells (`covers_congr`); each was toggled once, so it is toggled back, and it holds
1 now exactly when it held 0 at first. -/
theorem drawTwiceRestoresTheDisplay : Obligations.DrawTwiceRestoresTheDisplay := by
  intro x y x' y' n s t hdrf hexec hx hy
  obtain ⟨hrows, rfl⟩ : _ ∧ t = s.drawSprite x y n := by
    rcases exec_drwVxVyN_next hexec with ⟨hclear, -⟩ | ⟨-, h⟩
    · cases hdrf.symm.trans hclear
    · exact h
  set t := (s.drawSprite x y n).frame
  have hcovers : ∀ p, t.Covers x' y' n p ↔ s.Covers x y n p := State.covers_congr n rfl rfl (fun _ => rfl) hx hy
  have hlit : (∃ p, t.Covers x' y' n p ∧ cellAt t.disp p = true) ↔ ∃ p, s.Covers x y n p ∧ cellAt s.disp p = false := by
    refine exists_congr fun p => (and_congr_left' (hcovers p)).trans (and_congr_right fun hp => ?_)
    rw [show cellAt t.disp p = !cellAt s.disp p from State.cellAt_drawSprite_of_covers hp, Bool.not_eq_true']
  refine ⟨t.drawSprite x' y' n, exec_drwVxVyN_of_le (s := t) rfl hrows x' y', display_ext fun p => ?restored,
    State.reg_drawSprite_eq_one.trans hlit, State.reg_drawSprite_eq_zero.trans (not_congr hlit)⟩
  case restored =>
    by_cases hp : s.Covers x y n p
    · rw [State.cellAt_drawSprite_of_covers ((hcovers p).2 hp),
        show cellAt t.disp p = !cellAt s.disp p from State.cellAt_drawSprite_of_covers hp, Bool.not_not]
    · rw [State.cellAt_drawSprite_of_not_covers (mt (hcovers p).1 hp)]
      exact State.cellAt_drawSprite_of_not_covers hp

end Sys2Proof.Machine
end

/-! ## Keys and timers

A key skip is told apart by its register: it names a key (`keyOf_of_lt`), and then it is a skip like any other (`exec_of_skip`), or
it names none (`keyOf_of_ge`). The key a wait takes is the least one down (`firstKeyDown_eq_some`). The timer moves write one
register or one timer. -/

section
namespace Sys2Proof.Machine

/-! ### Key skips -/

/-- A register below 16 names the key of that number (R181). -/
theorem keyOf_of_lt {s : State} {x : Reg} (h : (s.reg x).toNat < 16) : s.keyOf x = some ⟨(s.reg x).toNat, h⟩ :=
  dif_pos h

/-- A register of 16 or more names no key (R181, D16). -/
theorem keyOf_of_ge {s : State} {x : Reg} (h : 16 ≤ (s.reg x).toNat) : s.keyOf x = none :=
  dif_neg (Nat.not_lt_of_le h)

/-- A key skip whose register names a key tests that key (R181, R182). -/
theorem skipOnKey_of_keyOf_eq_some {s : State} {x : Reg} {k : Key} (h : s.keyOf x = some k) (test : Bool → Bool) :
    skipOnKey x test s = .next (s.skipIf (test (s.keyDown k))) := by
  simp only [skipOnKey, h]

/-- A key skip whose register names no key raises `OutOfRange` with the index (R203 (c), D16). -/
theorem skipOnKey_of_keyOf_eq_none {s : State} {x : Reg} (h : s.keyOf x = none) (test : Bool → Bool) :
    skipOnKey x test s = raise .outOfRange (0#8 ++ s.reg x) s := by
  have hinfo : (s.reg x).setWidth 16 = 0#8 ++ s.reg x := BitVec.setWidth_eq_append (by decide)
  simp only [skipOnKey, h, hinfo]

/-- Settles O42: below 16 the two are skips on the key named (`exec_of_skip`), from 16 on both raise `OutOfRange`. -/
theorem skipsOnKey : Obligations.SkipsOnKey := by
  refine fun x s => ⟨decodeWord_of_encodeWord (packX_eq 0xE 9 0xE x), decodeWord_of_encodeWord (packX_eq 0xE 0xA 1 x),
    fun hlt => ?named, fun hge f hf => ?unnamed⟩
  case named =>
    have hkey := keyOf_of_lt hlt
    exact ⟨exec_of_skip (skipOnKey_of_keyOf_eq_some hkey id) Iff.rfl,
      exec_of_skip (skipOnKey_of_keyOf_eq_some hkey not) (Bool.not_eq_true' _).to_iff⟩
  case unnamed =>
    subst hf
    have hkey := keyOf_of_ge hge
    exact ⟨skipOnKey_of_keyOf_eq_none hkey id, skipOnKey_of_keyOf_eq_none hkey not⟩

/-! ### The wait for a key -/

/-- The first key down is the one that is down with none below it down (R183, D33). -/
theorem firstKeyDown_eq_some {s : State} {k : Key} :
    s.firstKeyDown = some k ↔ s.key[k] = true ∧ ∀ j : Key, j < k → s.key[j] = false := by
  rw [State.firstKeyDown, ← Fin.find?_eq_find?_finRange, Fin.find?_eq_some_iff]
  rfl

/-- A wait with a key down takes the first one (R183). -/
theorem exec_ldVxK_of_some {s : State} {k : Key} (h : s.firstKeyDown = some k) (x : Reg) :
    exec (.ldVxK x) s = .next (s.setReg x (BitVec.ofNat 8 k)) := by
  simp only [exec, execLdVxK, h]

/-- A wait with no key down goes back to `this_pc` (R183, D35). -/
theorem exec_ldVxK_of_none {s : State} (h : s.firstKeyDown = none) (x : Reg) : exec (.ldVxK x) s = .next s.rewind := by
  simp only [exec, execLdVxK, h]

/-- The number of a key is a byte: it is not reduced. -/
theorem keyByte_toNat (k : Key) : (BitVec.ofNat 8 k.val).toNat = k.val :=
  Nat.mod_eq_of_lt (k.isLt.trans (by decide))

/-- Settles O43: the key taken is the first one down (`firstKeyDown_eq_some`); with none down the wait is the rewind. -/
theorem waitForKey : Obligations.WaitForKey := by
  refine fun x s => ⟨decodeWord_of_encodeWord (packX_eq 0xF 0 0xA x), fun k hdown hbelow => ?taken, fun hup => ?stalled⟩
  case taken =>
    exact ⟨_, exec_ldVxK_of_some (firstKeyDown_eq_some.2 ⟨hdown, hbelow⟩) x,
      (congrArg BitVec.toNat (s.reg_setReg_same x _)).trans (keyByte_toNat k), s.setReg_frame x _⟩
  case stalled => exact exec_ldVxK_of_none (firstKeyDown_eq_none.2 hup) x

/-! ### Timer moves -/

/-- Settles O44: `FX07` is a register write (`setReg_frame`); each of the other two writes its timer only. -/
theorem timerMoves : Obligations.TimerMoves := fun x s =>
  ⟨⟨decodeWord_of_encodeWord (packX_eq 0xF 0 7 x), _, rfl, s.reg_setReg_same x s.dt, s.setReg_frame x s.dt⟩,
    ⟨decodeWord_of_encodeWord (packX_eq 0xF 1 5 x), _, rfl, rfl, rfl, fun _ => rfl⟩,
    ⟨decodeWord_of_encodeWord (packX_eq 0xF 1 8 x), _, rfl, rfl, rfl, fun _ => rfl⟩⟩

end Sys2Proof.Machine
end

/-! ## Exceptions: refusals, stalls, faults, and the host's Frame and key events

A tick is refused before it fetches, by the two checks of R70 in their order. A stall is a busy-wait that rewinds the advance of its
own fetch (`advance_rewind`). What an instruction can raise is said once in `exec_fault_cases`; a fault of a tick leaves the latch
set (`step_fault_after`), so the next tick is refused. -/

section
namespace Sys2Proof.Machine

/-! ### Refused ticks -/

/-- A tick of an uninitialized core is refused (R220). -/
theorem step_of_not_init {s : State} (h : s.init = false) : step s = .refused .notInitialized := by
  simp [step, State.beforeFetch, h]

/-- A tick of a faulted core is refused (R206). -/
theorem step_of_faulted {s : State} (hinit : s.init = true) (hfault : s.fault ≠ none) :
    step s = .refused .alreadyFaulted := by
  simp [step, State.beforeFetch, hinit, Option.isSome_iff_ne_none.2 hfault]

/-- Settles O9: the two checks in their order, and a refusal has no other reason (`step_refused`). -/
theorem refusedTicks : Obligations.RefusedTicks := by
  refine fun s => ⟨step_of_not_init, step_of_faulted, fun hinit hfault r h => ?_⟩
  rcases step_refused h with ⟨hnot, -⟩ | ⟨-, hfaulted, -⟩
  · exact absurd (hinit.symm.trans hnot) (by decide)
  · exact hfaulted hfault

/-! ### Stalled and halted cores -/

theorem condition_eq_running {s : State} : s.condition = .running ↔ s.Running := by
  unfold State.condition State.Running State.halted
  cases s.init <;> cases s.fault <;> simp

theorem condition_eq_halted {s : State} : s.condition = .halted ↔ s.GoodEnd := by
  unfold State.condition State.GoodEnd State.halted
  cases s.init <;> cases s.fault <;> simp

/-- A stalled core is running, at a blocked `FX0A` or a gated `DXYN` (R219). -/
theorem stalled_cases {s : State} (h : s.stalled = true) :
    s.Running ∧ ((∃ x, s.fetch = .ok (.ldVxK x) ∧ s.firstKeyDown = none) ∨
      ∃ x y n, s.fetch = .ok (.drwVxVyN x y n) ∧ s.drf = false) := by
  obtain ⟨hcondition, hblocked⟩ := (Bool.and_eq_true _ _).mp h
  refine ⟨condition_eq_running.1 (beq_iff_eq.1 hcondition), ?_⟩
  split at hblocked
  next x hfetch => exact .inl ⟨x, hfetch, Option.isNone_iff_eq_none.1 hblocked⟩
  next x y n hfetch => exact .inr ⟨x, y, n, hfetch, by simpa using hblocked⟩
  next => cases hblocked

/-- A running core executes what it fetches, on the advanced `pc` (R70 steps 5 and 7). -/
theorem step_of_fetch_ok {s : State} {i : Instr} (hrun : s.Running) (hfetch : s.fetch = .ok i) :
    step s = exec i s.advance := by
  rw [step_of_running hrun, hfetch]

/-- A stalled tick rewinds its own advance and does nothing else (R163, R183, D35). -/
theorem step_of_stalled {s : State} (h : s.stalled = true) : step s = .next s := by
  obtain ⟨hrun, ⟨x, hfetch, hkeys⟩ | ⟨x, y, n, hfetch, hdrf⟩⟩ := stalled_cases h
  · rw [step_of_fetch_ok hrun hfetch, exec_ldVxK_of_none (s := s.advance) hkeys, State.advance_rewind]
  · rw [step_of_fetch_ok hrun hfetch, exec_drwVxVyN_of_not_drf (s := s.advance) hdrf, State.advance_rewind]

/-- Settles O11: a stall rewinds its advance (`step_of_stalled`), and a halted core is at a good end (`step_of_goodEnd`). -/
theorem stallsAndHaltsAreNoExceptions : Obligations.StallsAndHaltsAreNoExceptions :=
  fun _ => ⟨step_of_stalled, fun h => step_of_goodEnd (condition_eq_halted.1 h)⟩

/-! ### What each instruction can raise (R200) -/

theorem exec_ret_fault {s : State} {f : Fault} (h : exec .ret s = .fault f) : f.cause = .stackUnderflow ∧ s.stack = [] := by
  cases hstack : s.stack with
  | nil =>
    rw [exec_ret_of_empty hstack] at h
    exact ⟨(raise_after h).1, rfl⟩
  | cons w ws =>
    rw [exec_ret_of_stack hstack] at h
    cases h

theorem exec_call_fault {nnn : Addr12} {s : State} {f : Fault} (h : exec (.call nnn) s = .fault f) :
    f.cause = .stackOverflow ∧ s.cfg.stackDepth ≠ none := by
  cases hfull : s.stackFull with
  | true =>
    obtain ⟨n, hdepth, -⟩ := stackFull_iff.1 hfull
    rw [exec_call_of_full hfull] at h
    exact ⟨(raise_after h).1, by simp [hdepth]⟩
  | false =>
    rw [exec_call_of_room hfull] at h
    cases h

/-- A bounded block that then completes can raise `OutOfRange` only (R203 (b)). -/
theorem withBlock_next_fault {s t : State} {base count : Nat} {f : Fault}
    (h : s.withBlock base count (.next t) = .fault f) : f.cause = .outOfRange := by
  unfold State.withBlock at h
  split at h
  · exact (raise_after h).1
  · cases h

/-- A key skip can raise `OutOfRange` only (R203 (c)). -/
theorem skipOnKey_fault {x : Reg} {test : Bool → Bool} {s : State} {f : Fault} (h : skipOnKey x test s = .fault f) :
    f.cause = .outOfRange := by
  unfold skipOnKey at h
  split at h
  · cases h
  · exact (raise_after h).1

theorem exec_drwVxVyN_fault {x y : Reg} {n : Fin 16} {s : State} {f : Fault} (h : exec (.drwVxVyN x y n) s = .fault f) :
    f.cause = .outOfRange ∧ s.drf = true := by
  cases hdrf : s.drf with
  | true =>
    rw [exec_drwVxVyN_of_drf hdrf] at h
    exact ⟨withBlock_next_fault h, rfl⟩
  | false =>
    rw [exec_drwVxVyN_of_not_drf hdrf] at h
    cases h

/-- A wait for a key goes on, with the key or stalled (R183). -/
theorem exec_ldVxK_ne_fault (x : Reg) (s : State) (f : Fault) : exec (.ldVxK x) s ≠ .fault f := by
  cases hkey : s.firstKeyDown with
  | some k => simp [exec_ldVxK_of_some hkey]
  | none => simp [exec_ldVxK_of_none hkey]

/-- The instructions that can fault, each with its cause and its guard (R200 to R204). -/
theorem exec_fault_cases {i : Instr} {s : State} {f : Fault} (h : exec i s = .fault f) :
    (f.cause = .stackUnderflow ∧ i = .ret ∧ s.stack = []) ∨
    (f.cause = .outOfRange ∧ ∃ x, i = .ldBVx x ∨ i = .ldMemIVx x ∨ i = .ldVxMemI x ∨
      i = .skpVx x ∨ i = .sknpVx x ∨ ∃ y n, i = .drwVxVyN x y n ∧ s.drf = true) ∨
    (f.cause = .stackOverflow ∧ (∃ nnn, i = .call nnn) ∧ s.cfg.stackDepth ≠ none) := by
  cases i with
  | ret =>
    obtain ⟨hcause, hstack⟩ := exec_ret_fault h
    exact .inl ⟨hcause, rfl, hstack⟩
  | call nnn =>
    obtain ⟨hcause, hdepth⟩ := exec_call_fault h
    exact .inr (.inr ⟨hcause, ⟨nnn, rfl⟩, hdepth⟩)
  | drwVxVyN x y n =>
    obtain ⟨hcause, hdrf⟩ := exec_drwVxVyN_fault h
    exact .inr (.inl ⟨hcause, x, by simp [hdrf]⟩)
  | ldBVx x | ldMemIVx x | ldVxMemI x => exact .inr (.inl ⟨withBlock_next_fault h, x, by simp⟩)
  | skpVx x | sknpVx x => exact .inr (.inl ⟨skipOnKey_fault h, x, by simp⟩)
  | ldVxK x => exact absurd h (exec_ldVxK_ne_fault x s f)
  | _ => cases h

/-- Settles O48: the causes are those of `exec_fault_cases`, each with its code. -/
theorem onlyListedInstructionsFault : Obligations.OnlyListedInstructionsFault := by
  refine fun i s => ⟨exec_ne_refused i s, fun f h => ?_⟩
  rcases exec_fault_cases h with ⟨hcause, hi⟩ | ⟨hcause, hi⟩ | ⟨hcause, hi⟩
  · exact .inl ⟨hcause, congrArg FaultCause.code hcause, hi⟩
  · exact .inr (.inl ⟨hcause, congrArg FaultCause.code hcause, hi⟩)
  · exact .inr (.inr ⟨hcause, congrArg FaultCause.code hcause, hi⟩)

/-- Settles O49: the state left is that of `step_fault_after`, still initialized and with the latch set, so it refuses
(`step_of_faulted`). -/
theorem faultsArePrecise : Obligations.FaultsArePrecise := by
  intro s f h
  obtain ⟨hrun, info, hafter⟩ := step_fault_after h
  have hinit : f.after.init = true := by rw [hafter]; exact hrun.1
  have hlatched : f.after.fault ≠ none := by simp [hafter]
  exact ⟨hrun, ⟨info, hafter⟩, congrArg (sessionAfter s) h, step_of_faulted hinit hlatched⟩

/-! ### Frame -/

theorem countDown_toNat (t : Byte) : (countDown t).toNat = t.toNat - 1 := by
  unfold countDown
  split <;> bv_omega

/-- Settles O55: the event is `State.frame`, and each timer is counted down (`countDown_toNat`). -/
theorem frameEvent : Obligations.FrameEvent := fun s hinit _ =>
  ⟨s.frame, hostEvent_frame_of_init hinit, rfl, countDown_toNat s.dt, countDown_toNat s.st, rfl, fun _ => rfl⟩

/-- Frames of an initialized core, one after the other (R212). -/
theorem session_frame_succ {s : State} (h : s.init = true) (n : Nat) :
    session s (List.replicate (n + 1) .frame) = session s.frame (List.replicate n .frame) := by
  have hfirst : sessionStep s .frame = s.frame := congrArg (sessionAfter s) (hostEvent_frame_of_init h)
  rw [List.replicate_succ, session, List.foldl_cons, hfirst, session]

/-- Settles O56, by induction on the number of Frames: the first one counts each timer down by one (`countDown_toNat`). -/
theorem timersCountFrames : Obligations.TimersCountFrames := by
  intro s n hinit hfault
  induction n generalizing s with
  | zero => exact ⟨rfl, rfl⟩
  | succ n ih =>
    obtain ⟨hdt, hst⟩ := ih s.frame hinit hfault
    have hdtFrame : s.frame.dt.toNat = s.dt.toNat - 1 := countDown_toNat s.dt
    have hstFrame : s.frame.st.toNat = s.st.toNat - 1 := countDown_toNat s.st
    rw [session_frame_succ hinit]
    omega

/-! ### Key events -/

/-- An event that writes the latch of one key leaves the others and all else (R215). -/
theorem key_event_spec {e : HostEvent} {s : State} {k : Key} {down : Bool} (h : hostEvent e s = .next (s.setKey k down)) :
    ∃ t, hostEvent e s = .next t ∧ t.key[k] = down ∧ (∀ j, j ≠ k → t.key[j] = s.key[j]) ∧
      t = { s with key := t.key } ∧ SameBytes s t := by
  refine ⟨_, h, ?same, fun j hj => ?other, rfl, fun _ => rfl⟩
  case same => exact Vector.getElem_set_self _
  case other => exact Vector.getElem_set_ne k.isLt j.isLt (Fin.val_ne_of_ne hj.symm)

/-- Settles O57: on an initialized core the two are the write of one key, down and up (`key_event_spec`). -/
theorem keyEvents : Obligations.KeyEvents :=
  fun _ _ hinit _ => ⟨key_event_spec (if_pos hinit), key_event_spec (if_pos hinit)⟩

end Sys2Proof.Machine
end

/-! ## Progress, and a ROM that does not fit

A tick of an initialized, unfaulted core is never refused, and what it goes on in has the same keys and no `DRF` that was not set
before: the core waits for the host only. A Reset with too long a ROM leaves an uninitialized core, which refuses every tick and
Frame. -/

section
namespace Sys2Proof.Machine

/-! ### Progress -/

/-- A tick of an initialized, unfaulted core goes on or faults (R239): no refusal is left to it (`refusedTicks`). -/
theorem step_next_or_fault {s : State} (hinit : s.init = true) (hfault : s.fault = none) :
    (∃ t, step s = .next t) ∨ ∃ f, step s = .fault f := by
  cases h : step s with
  | next t => exact .inl ⟨t, rfl⟩
  | fault f => exact .inr ⟨f, rfl⟩
  | refused r =>
    obtain ⟨-, -, hnever⟩ := refusedTicks s
    exact absurd h (hnever hinit hfault r)

/-- No tick changes a key (R17, R239). -/
theorem key_of_step_next {s t : State} (h : step s = .next t) : t.key = s.key := by
  rcases step_next_cases h with ⟨-, rfl⟩ | ⟨-, i, -, hexec⟩
  · rfl
  · obtain ⟨hkey, -⟩ := (exec_next hexec).frame
    exact hkey

/-- Settles O10: no refusal is left (`step_next_or_fault`), `DRF` is at most kept (`drf_of_step_next`), and the keys are
(`key_of_step_next`). -/
theorem ticksProgressAndNeverWakeThemselves : Obligations.TicksProgressAndNeverWakeThemselves :=
  fun _ hinit hfault =>
    ⟨step_next_or_fault hinit hfault, fun _ h => ⟨drf_of_step_next h, key_of_step_next h⟩⟩

/-! ### A ROM that does not fit -/

/-- A Frame of an uninitialized core is no move (R230). -/
theorem hostEvent_frame_of_not_init {s : State} (h : s.init = false) :
    hostEvent .frame s = .refused .notInitialized := by
  simp [hostEvent, onInitialized, h]

/-- A Reset whose ROM does not fit leaves the core uninitialized (R232, D7). -/
theorem hostEvent_reset_of_too_large {rom : List Byte} (h : maxRom < rom.length) (s : State) :
    hostEvent (.reset rom) s = .refused (.romTooLarge s.uninitialized) :=
  if_neg (mt romFits_iff.1 (Nat.not_le.2 h))

/-- Settles O54: the state the refusal carries is `State.uninitialized`, which keeps the parameters and refuses a tick
(`step_of_not_init`) and a Frame (`hostEvent_frame_of_not_init`). -/
theorem oversizedRomLeavesTheCoreUninitialized : Obligations.OversizedRomLeavesTheCoreUninitialized := by
  intro rom s hrom
  have hreset : hostEvent (.reset rom) s = .refused (.romTooLarge s.uninitialized) := hostEvent_reset_of_too_large hrom s
  have hinit : s.uninitialized.init = false := rfl
  exact ⟨s.uninitialized, hreset, congrArg (sessionAfter s) hreset, hinit, rfl, step_of_not_init hinit,
    hostEvent_frame_of_not_init hinit⟩

end Sys2Proof.Machine
end
